-- ==== Sys2Proof/Word.lean ====
section
/-! DEFINITION. The word types of the hardware (spec/00_scope.md R8, R10). -/

namespace Sys2Proof

/-- A 64-bit value: an integer register, an address, the pc, a CSR entry (R8: XLEN = 64). -/
abbrev Word := BitVec 64

/-- A 32-bit value: an instruction word, a binary32 pattern, the low half of a register (R8, R15). -/
abbrev Word32 := BitVec 32

/-- The addressable unit of memory (R51). -/
abbrev Byte := BitVec 8

/-- `sext_64(v)` of R10. -/
abbrev sext64 {n : Nat} (v : BitVec n) : Word := v.signExtend 64

/-- `zext_64(v)` of R10. -/
abbrev zext64 {n : Nat} (v : BitVec n) : Word := v.setWidth 64

end Sys2Proof
end

