-- ==== Sys2Proof/Config.lean ====
section
/-! DEFINITION. What the spec fixes for every implementation (spec/00_scope.md R8, R9). The open parameters
MEM_SIZE, SP_DEFAULT, FREG_RESET and IMAGE are fields of `Machine.ResetParams` and arguments of `Machine.boot`;
STOP is an argument of `driverRun`. There is no free value: R384 leaves no result open. -/

namespace Sys2Proof

/-- The CSR bank has exactly 4096 entries, addressed by a 12-bit index (R8, R36). -/
def Config.csrEntries : Nat := 4096

/-- The length of every instruction in bytes, and the advance of pc (R8, R28, R121). -/
def Config.instrBytes : Nat := 4

/-- `RESET_PC` = 0, the first byte of the image (R9, R41, R61; decision D17). -/
def Config.resetPc : Word := 0

/-- The most bytes a buffer can have. The top 2048 addresses, 0xFFFFFFFFFFFFF800 to 0xFFFFFFFFFFFFFFFF, are "outside any
buffer" (R200). DEDUCED, log 15. -/
abbrev Config.maxMemSize : Nat := 0xFFFFFFFFFFFFF800

/-- MEM_SIZE, a number of bytes from 0 to `maxMemSize`. R9 and D13 leave the number open; the bound is R200's, and with it
a window that would wrap past 2^64 is out of bounds "for every possible MEM_SIZE" (R56). DEDUCED, log 15. -/
abbrev Config.MemSize := Fin (Config.maxMemSize + 1)

end Sys2Proof
end

