-- ==== Sys2Proof/Syntax.lean ====
section
/-! DEFINITION. The instructions as the decoder delivers them: one constructor per row of spec/opcode_table.json.
Payloads follow spec/30_encoding.md R81: register numbers 0 to 31, immediates in a 64-bit container after sign
extension (R90 to R95); the aq, rl, fence and ignored rm bits are dropped (R81, R117, decision D32; log 8). -/

namespace Sys2Proof

/-- A register number, integer or floating-point (R81: "Register numbers are 5-bit values 0 to 31"). -/
abbrev Reg := Fin 32

/-- A CSR index: an unsigned 12-bit number (R96). -/
abbrev CsrIndex := BitVec 12

/-- The five static rounding modes (R244). -/
inductive RoundMode where
  /-- 000: nearest, ties to even -/
  | rne
  /-- 001: toward zero -/
  | rtz
  /-- 010: toward minus infinity -/
  | rdn
  /-- 011: toward plus infinity -/
  | rup
  /-- 100: nearest, ties away from zero -/
  | rmm
  deriving DecidableEq, Repr

/-- The rm field, inst[14:12], as the four FCVT.S.* forms carry it (R81, R244). -/
inductive RmField where
  | static (m : RoundMode)
  /-- 101, reserved -/
  | reserved5
  /-- 110, reserved -/
  | reserved6
  /-- 111, dynamic: "explicitly unsupported and must abort" (R244 (c)) -/
  | dyn
  deriving DecidableEq, Repr

/-- The decoded instruction. `imm` holds imm_I, imm_S or imm_U, `joff` the byte offset of a jump (R94), `k` the
pre-halved branch immediate (R90), `shamt` the zero-extended shift amount (R95). In a floating-point row a register
number names a register of the file the rule of that row says. -/
inductive Instr where
  -- integer computational (40)
  /-- LUI (R161) -/
  | lui (rd : Reg) (imm : Word)
  /-- AUIPC (R162) -/
  | auipc (rd : Reg) (imm : Word)
  -- control transfer (41)
  /-- JAL (R181) -/
  | jal (rd : Reg) (joff : Word)
  /-- JALR (R182) -/
  | jalr (rd rs1 : Reg) (imm : Word)
  /-- BEQ (R184) -/
  | beq (rs1 rs2 : Reg) (k : Word)
  /-- BNE (R185) -/
  | bne (rs1 rs2 : Reg) (k : Word)
  /-- BLT (R186) -/
  | blt (rs1 rs2 : Reg) (k : Word)
  /-- BGE (R187) -/
  | bge (rs1 rs2 : Reg) (k : Word)
  /-- BLTU (R188) -/
  | bltu (rs1 rs2 : Reg) (k : Word)
  /-- BGEU (R189) -/
  | bgeu (rs1 rs2 : Reg) (k : Word)
  -- load and store (42)
  /-- LB (R202) -/
  | lb (rd rs1 : Reg) (imm : Word)
  /-- LH (R203) -/
  | lh (rd rs1 : Reg) (imm : Word)
  /-- LW (R204) -/
  | lw (rd rs1 : Reg) (imm : Word)
  /-- LD (R205) -/
  | ld (rd rs1 : Reg) (imm : Word)
  /-- LBU (R206) -/
  | lbu (rd rs1 : Reg) (imm : Word)
  /-- LHU (R207) -/
  | lhu (rd rs1 : Reg) (imm : Word)
  /-- LWU (R208) -/
  | lwu (rd rs1 : Reg) (imm : Word)
  /-- SB (R210) -/
  | sb (rs1 rs2 : Reg) (imm : Word)
  /-- SH (R211) -/
  | sh (rs1 rs2 : Reg) (imm : Word)
  /-- SW (R212) -/
  | sw (rs1 rs2 : Reg) (imm : Word)
  /-- SD (R213) -/
  | sd (rs1 rs2 : Reg) (imm : Word)
  -- integer computational (40)
  /-- ADDI (R133) -/
  | addi (rd rs1 : Reg) (imm : Word)
  /-- SLTI (R134) -/
  | slti (rd rs1 : Reg) (imm : Word)
  /-- SLTIU (R135) -/
  | sltiu (rd rs1 : Reg) (imm : Word)
  /-- XORI (R136) -/
  | xori (rd rs1 : Reg) (imm : Word)
  /-- ORI (R137) -/
  | ori (rd rs1 : Reg) (imm : Word)
  /-- ANDI (R138) -/
  | andi (rd rs1 : Reg) (imm : Word)
  /-- SLLI (R139) -/
  | slli (rd rs1 : Reg) (shamt : Word)
  /-- SRLI (R140) -/
  | srli (rd rs1 : Reg) (shamt : Word)
  /-- SRAI (R141) -/
  | srai (rd rs1 : Reg) (shamt : Word)
  /-- ADD (R142) -/
  | add (rd rs1 rs2 : Reg)
  /-- SUB (R143) -/
  | sub (rd rs1 rs2 : Reg)
  /-- SLL (R144) -/
  | sll (rd rs1 rs2 : Reg)
  /-- SLT (R145) -/
  | slt (rd rs1 rs2 : Reg)
  /-- SLTU (R146) -/
  | sltu (rd rs1 rs2 : Reg)
  /-- XOR (R147) -/
  | xor (rd rs1 rs2 : Reg)
  /-- SRL (R148) -/
  | srl (rd rs1 rs2 : Reg)
  /-- SRA (R149) -/
  | sra (rd rs1 rs2 : Reg)
  /-- OR (R150) -/
  | or (rd rs1 rs2 : Reg)
  /-- AND (R151) -/
  | and (rd rs1 rs2 : Reg)
  /-- ADDIW (R152) -/
  | addiw (rd rs1 : Reg) (imm : Word)
  /-- SLLIW (R153) -/
  | slliw (rd rs1 : Reg) (shamt : Word)
  /-- SRLIW (R154) -/
  | srliw (rd rs1 : Reg) (shamt : Word)
  /-- SRAIW (R155) -/
  | sraiw (rd rs1 : Reg) (shamt : Word)
  /-- ADDW (R156) -/
  | addw (rd rs1 rs2 : Reg)
  /-- SUBW (R157) -/
  | subw (rd rs1 rs2 : Reg)
  /-- SLLW (R158) -/
  | sllw (rd rs1 rs2 : Reg)
  /-- SRLW (R159) -/
  | srlw (rd rs1 rs2 : Reg)
  /-- SRAW (R160) -/
  | sraw (rd rs1 rs2 : Reg)
  -- CSR access and fence (46)
  /-- FENCE (R327) -/
  | fence
  /-- FENCE.I (R328) -/
  | fenceI
  /-- CSRRW (R321) -/
  | csrrw (rd rs1 : Reg) (csr : CsrIndex)
  /-- CSRRS (R322) -/
  | csrrs (rd rs1 : Reg) (csr : CsrIndex)
  /-- CSRRC (R323) -/
  | csrrc (rd rs1 : Reg) (csr : CsrIndex)
  /-- CSRRWI (R324) -/
  | csrrwi (rd : Reg) (uimm : BitVec 5) (csr : CsrIndex)
  /-- CSRRSI (R325) -/
  | csrrsi (rd : Reg) (uimm : BitVec 5) (csr : CsrIndex)
  /-- CSRRCI (R326) -/
  | csrrci (rd : Reg) (uimm : BitVec 5) (csr : CsrIndex)
  -- multiply and divide (43)
  /-- MUL (R222) -/
  | mul (rd rs1 rs2 : Reg)
  /-- MULH (R223) -/
  | mulh (rd rs1 rs2 : Reg)
  /-- MULHSU (R224) -/
  | mulhsu (rd rs1 rs2 : Reg)
  /-- MULHU (R225) -/
  | mulhu (rd rs1 rs2 : Reg)
  /-- DIV (R226) -/
  | div (rd rs1 rs2 : Reg)
  /-- DIVU (R227) -/
  | divu (rd rs1 rs2 : Reg)
  /-- REM (R228) -/
  | rem (rd rs1 rs2 : Reg)
  /-- REMU (R229) -/
  | remu (rd rs1 rs2 : Reg)
  /-- MULW (R230) -/
  | mulw (rd rs1 rs2 : Reg)
  /-- DIVW (R231) -/
  | divw (rd rs1 rs2 : Reg)
  /-- DIVUW (R232) -/
  | divuw (rd rs1 rs2 : Reg)
  /-- REMW (R233) -/
  | remw (rd rs1 rs2 : Reg)
  /-- REMUW (R234) -/
  | remuw (rd rs1 rs2 : Reg)
  -- atomic memory (45)
  /-- LR.W (R292) -/
  | lrW (rd rs1 : Reg)
  /-- SC.W (R293) -/
  | scW (rd rs1 rs2 : Reg)
  /-- AMOSWAP.W (R294) -/
  | amoswapW (rd rs1 rs2 : Reg)
  /-- AMOADD.W (R295) -/
  | amoaddW (rd rs1 rs2 : Reg)
  /-- AMOXOR.W (R296) -/
  | amoxorW (rd rs1 rs2 : Reg)
  /-- AMOAND.W (R297) -/
  | amoandW (rd rs1 rs2 : Reg)
  /-- AMOOR.W (R298) -/
  | amoorW (rd rs1 rs2 : Reg)
  /-- AMOMIN.W (R299) -/
  | amominW (rd rs1 rs2 : Reg)
  /-- AMOMAX.W (R300) -/
  | amomaxW (rd rs1 rs2 : Reg)
  /-- AMOMINU.W (R301) -/
  | amominuW (rd rs1 rs2 : Reg)
  /-- AMOMAXU.W (R302) -/
  | amomaxuW (rd rs1 rs2 : Reg)
  /-- LR.D (R303) -/
  | lrD (rd rs1 : Reg)
  /-- SC.D (R304) -/
  | scD (rd rs1 rs2 : Reg)
  /-- AMOSWAP.D (R305) -/
  | amoswapD (rd rs1 rs2 : Reg)
  /-- AMOADD.D (R306) -/
  | amoaddD (rd rs1 rs2 : Reg)
  /-- AMOXOR.D (R307) -/
  | amoxorD (rd rs1 rs2 : Reg)
  /-- AMOAND.D (R308) -/
  | amoandD (rd rs1 rs2 : Reg)
  /-- AMOOR.D (R309) -/
  | amoorD (rd rs1 rs2 : Reg)
  /-- AMOMIN.D (R310) -/
  | amominD (rd rs1 rs2 : Reg)
  /-- AMOMAX.D (R311) -/
  | amomaxD (rd rs1 rs2 : Reg)
  /-- AMOMINU.D (R312) -/
  | amominuD (rd rs1 rs2 : Reg)
  /-- AMOMAXU.D (R313) -/
  | amomaxuD (rd rs1 rs2 : Reg)
  -- single-precision floating point (44)
  /-- FLW (R250) -/
  | flw (rd rs1 : Reg) (imm : Word)
  /-- FSW (R251) -/
  | fsw (rs1 rs2 : Reg) (imm : Word)
  /-- FMADD.S (R252) -/
  | fmaddS (rd rs1 rs2 rs3 : Reg)
  /-- FMSUB.S (R253) -/
  | fmsubS (rd rs1 rs2 rs3 : Reg)
  /-- FNMSUB.S (R254) -/
  | fnmsubS (rd rs1 rs2 rs3 : Reg)
  /-- FNMADD.S (R255) -/
  | fnmaddS (rd rs1 rs2 rs3 : Reg)
  /-- FADD.S (R256) -/
  | faddS (rd rs1 rs2 : Reg)
  /-- FSUB.S (R257) -/
  | fsubS (rd rs1 rs2 : Reg)
  /-- FMUL.S (R258) -/
  | fmulS (rd rs1 rs2 : Reg)
  /-- FDIV.S (R259) -/
  | fdivS (rd rs1 rs2 : Reg)
  /-- FSQRT.S (R260) -/
  | fsqrtS (rd rs1 : Reg)
  /-- FSGNJ.S (R261) -/
  | fsgnjS (rd rs1 rs2 : Reg)
  /-- FSGNJN.S (R262) -/
  | fsgnjnS (rd rs1 rs2 : Reg)
  /-- FSGNJX.S (R263) -/
  | fsgnjxS (rd rs1 rs2 : Reg)
  /-- FMIN.S (R264) -/
  | fminS (rd rs1 rs2 : Reg)
  /-- FMAX.S (R265) -/
  | fmaxS (rd rs1 rs2 : Reg)
  /-- FCVT.W.S (R266) -/
  | fcvtWS (rd rs1 : Reg)
  /-- FCVT.WU.S (R267) -/
  | fcvtWuS (rd rs1 : Reg)
  /-- FCVT.L.S (R268) -/
  | fcvtLS (rd rs1 : Reg)
  /-- FCVT.LU.S (R269) -/
  | fcvtLuS (rd rs1 : Reg)
  /-- FMV.X.W (R270) -/
  | fmvXW (rd rs1 : Reg)
  /-- FEQ.S (R271) -/
  | feqS (rd rs1 rs2 : Reg)
  /-- FLT.S (R272) -/
  | fltS (rd rs1 rs2 : Reg)
  /-- FLE.S (R273) -/
  | fleS (rd rs1 rs2 : Reg)
  /-- FCLASS.S (R274) -/
  | fclassS (rd rs1 : Reg)
  /-- FCVT.S.W (R275) -/
  | fcvtSW (rd rs1 : Reg) (rm : RmField)
  /-- FCVT.S.WU (R276) -/
  | fcvtSWu (rd rs1 : Reg) (rm : RmField)
  /-- FCVT.S.L (R277) -/
  | fcvtSL (rd rs1 : Reg) (rm : RmField)
  /-- FCVT.S.LU (R278) -/
  | fcvtSLu (rd rs1 : Reg) (rm : RmField)
  /-- FMV.W.X (R279) -/
  | fmvWX (rd rs1 : Reg)
  deriving DecidableEq, Repr

end Sys2Proof
end

