-- ==== Sys2Proof/WellFormed.lean ====
section
/-! DEFINITION. Which decoded instructions the encoding can express: the ranges of the immediates
(spec/30_encoding.md R90 to R95). Register numbers, CSR indices, `uimm` and `rm` are exact by their types. -/

namespace Sys2Proof

/-- The container holds an n-bit signed number, sign-extended (R91 to R94). -/
def fitsSigned (n : Nat) (v : Word) : Bool := sext64 (v.setWidth n) == v

/-- The container holds an n-bit unsigned number, zero-extended (R95). -/
def fitsUnsigned (n : Nat) (v : Word) : Bool := zext64 (v.setWidth n) == v

/-- I and S immediates: -2048 to 2047 (R91, R92); U: 20 bits signed (R93); branch k: -2048 to 2047 (R90);
joff: even, -1048576 to 1048574 (R94); shift amounts: 0 to 63, 0 to 31 for the word forms (R95). -/
def Instr.wf : Instr → Bool
  | .jalr _ _ imm | .lb _ _ imm | .lh _ _ imm | .lw _ _ imm | .ld _ _ imm | .lbu _ _ imm | .lhu _ _ imm
  | .lwu _ _ imm | .sb _ _ imm | .sh _ _ imm | .sw _ _ imm | .sd _ _ imm | .addi _ _ imm | .slti _ _ imm
  | .sltiu _ _ imm | .xori _ _ imm | .ori _ _ imm | .andi _ _ imm | .addiw _ _ imm | .flw _ _ imm | .fsw _ _ imm => fitsSigned 12 imm
  | .lui _ imm | .auipc _ imm => fitsSigned 20 imm
  | .beq _ _ k | .bne _ _ k | .blt _ _ k | .bge _ _ k | .bltu _ _ k | .bgeu _ _ k => fitsSigned 12 k
  | .jal _ joff => fitsSigned 21 joff && !joff.getLsbD 0
  | .slli _ _ shamt | .srli _ _ shamt | .srai _ _ shamt => fitsUnsigned 6 shamt
  | .slliw _ _ shamt | .srliw _ _ shamt | .sraiw _ _ shamt => fitsUnsigned 5 shamt
  | .add _ _ _ | .sub _ _ _ | .sll _ _ _ | .slt _ _ _ | .sltu _ _ _ | .xor _ _ _ | .srl _ _ _ | .sra _ _ _
  | .or _ _ _ | .and _ _ _ | .addw _ _ _ | .subw _ _ _ | .sllw _ _ _ | .srlw _ _ _ | .sraw _ _ _ | .fence | .fenceI
  | .csrrw _ _ _ | .csrrs _ _ _ | .csrrc _ _ _ | .csrrwi _ _ _ | .csrrsi _ _ _ | .csrrci _ _ _ | .mul _ _ _
  | .mulh _ _ _ | .mulhsu _ _ _ | .mulhu _ _ _ | .div _ _ _ | .divu _ _ _ | .rem _ _ _ | .remu _ _ _ | .mulw _ _ _
  | .divw _ _ _ | .divuw _ _ _ | .remw _ _ _ | .remuw _ _ _ | .lrW _ _ | .scW _ _ _ | .amoswapW _ _ _
  | .amoaddW _ _ _ | .amoxorW _ _ _ | .amoandW _ _ _ | .amoorW _ _ _ | .amominW _ _ _ | .amomaxW _ _ _
  | .amominuW _ _ _ | .amomaxuW _ _ _ | .lrD _ _ | .scD _ _ _ | .amoswapD _ _ _ | .amoaddD _ _ _ | .amoxorD _ _ _
  | .amoandD _ _ _ | .amoorD _ _ _ | .amominD _ _ _ | .amomaxD _ _ _ | .amominuD _ _ _ | .amomaxuD _ _ _
  | .fmaddS _ _ _ _ | .fmsubS _ _ _ _ | .fnmsubS _ _ _ _ | .fnmaddS _ _ _ _ | .faddS _ _ _ | .fsubS _ _ _
  | .fmulS _ _ _ | .fdivS _ _ _ | .fsqrtS _ _ | .fsgnjS _ _ _ | .fsgnjnS _ _ _ | .fsgnjxS _ _ _ | .fminS _ _ _
  | .fmaxS _ _ _ | .fcvtWS _ _ | .fcvtWuS _ _ | .fcvtLS _ _ | .fcvtLuS _ _ | .fmvXW _ _ | .feqS _ _ _ | .fltS _ _ _
  | .fleS _ _ _ | .fclassS _ _ | .fcvtSW _ _ _ | .fcvtSWu _ _ _ | .fcvtSL _ _ _ | .fcvtSLu _ _ _ | .fmvWX _ _ => true

end Sys2Proof
end

