-- ==== Sys2Proof/Decode.lean ====
section
/-! DEFINITION. The Instruction Decoder: field and immediate extraction (spec/30_encoding.md R82, R90 to R96), the
opcode map as a table of rows in the order and with the masks of spec/opcode_table.json (R97 to R114), the decoder
over it, total on any word and on any bytes, and after it the encoder, written from the bit layouts of R83 to R89.
The opcode and funct numbers are the spec's general knowledge (G1 to G4; log 9). -/

namespace Sys2Proof

/-! ### Fields (R82) -/

/-- The register number held in five bits. -/
def Reg.ofBits (b : BitVec 5) : Reg := b.toFin

/-- The five bits of a register number. -/
def Reg.bits (r : Reg) : BitVec 5 := BitVec.ofFin r

/-- rd = inst[11:7] -/
def rdOf (w : Word32) : Reg := Reg.ofBits (w.extractLsb' 7 5)
/-- rs1 = inst[19:15] -/
def rs1Of (w : Word32) : Reg := Reg.ofBits (w.extractLsb' 15 5)
/-- rs2 = inst[24:20] -/
def rs2Of (w : Word32) : Reg := Reg.ofBits (w.extractLsb' 20 5)
/-- rs3 = inst[31:27] -/
def rs3Of (w : Word32) : Reg := Reg.ofBits (w.extractLsb' 27 5)
/-- csr = inst[31:20], unsigned (R96) -/
def csrOf (w : Word32) : CsrIndex := w.extractLsb' 20 12
/-- uimm = inst[19:15] (R96) -/
def uimmOf (w : Word32) : BitVec 5 := w.extractLsb' 15 5

/-- The rm encodings of R244. -/
def RmField.ofBits (b : BitVec 3) : RmField :=
  if b = 0b000#3 then .static .rne
  else if b = 0b001#3 then .static .rtz
  else if b = 0b010#3 then .static .rdn
  else if b = 0b011#3 then .static .rup
  else if b = 0b100#3 then .static .rmm
  else if b = 0b101#3 then .reserved5
  else if b = 0b110#3 then .reserved6
  else .dyn

/-- The three bits of an rm field (R244). -/
def RmField.bits : RmField → BitVec 3
  | .static .rne => 0b000#3
  | .static .rtz => 0b001#3
  | .static .rdn => 0b010#3
  | .static .rup => 0b011#3
  | .static .rmm => 0b100#3
  | .reserved5 => 0b101#3
  | .reserved6 => 0b110#3
  | .dyn => 0b111#3

/-- rm = inst[14:12] (R82, R244) -/
def rmOf (w : Word32) : RmField := RmField.ofBits (w.extractLsb' 12 3)

/-! ### Immediates (R90 to R95) -/

/-- R91: `imm_I = sext_64(inst[31:20])` -/
def immI (w : Word32) : Word := sext64 (w.extractLsb' 20 12)
/-- R92: `imm_S = sext_64(inst[31:25] ‖ inst[11:7])` -/
def immS (w : Word32) : Word := sext64 (w.extractLsb' 25 7 ++ w.extractLsb' 7 5)
/-- R90: `k = sext_64(inst[31] ‖ inst[7] ‖ inst[30:25] ‖ inst[11:8])`, the pre-halved branch immediate -/
def immB (w : Word32) : Word :=
  sext64 (w.extractLsb' 31 1 ++ w.extractLsb' 7 1 ++ w.extractLsb' 25 6 ++ w.extractLsb' 8 4)
/-- R93: `imm_U = sext_64(inst[31:12])` -/
def immU (w : Word32) : Word := sext64 (w.extractLsb' 12 20)
/-- R94: `joff = sext_64(inst[31] ‖ inst[19:12] ‖ inst[20] ‖ inst[30:21] ‖ 0)`, the jump's byte offset -/
def immJ (w : Word32) : Word :=
  sext64 (w.extractLsb' 31 1 ++ w.extractLsb' 12 8 ++ w.extractLsb' 20 1 ++ w.extractLsb' 21 10 ++ 0#1)
/-- R95: `zext_64(inst[25:20])`, the shift amount of SLLI, SRLI, SRAI -/
def shamt6 (w : Word32) : Word := zext64 (w.extractLsb' 20 6)
/-- R95: `zext_64(inst[24:20])`, the shift amount of SLLIW, SRLIW, SRAIW -/
def shamt5 (w : Word32) : Word := zext64 (w.extractLsb' 20 5)

/-! ### The opcode map (R97 to R113, opcode_table.json) -/

/-- One row of opcode_table.json: the bits it fixes, their values, and the instruction its fields make. -/
structure Row where
  mnemonic : String
  mask     : Word32
  pat      : Word32
  build    : Word32 → Instr

/-- `word & mask == match` (R114). -/
def Row.accepts (r : Row) (w : Word32) : Bool := w &&& r.mask == r.pat

/-- Rows of LUI, AUIPC and the control transfers (R104 to R107). -/
def rowsControl : List Row := [
  ⟨"LUI", 0x0000007F#32, 0x00000037#32, fun w => .lui (rdOf w) (immU w)⟩,
  ⟨"AUIPC", 0x0000007F#32, 0x00000017#32, fun w => .auipc (rdOf w) (immU w)⟩,
  ⟨"JAL", 0x0000007F#32, 0x0000006F#32, fun w => .jal (rdOf w) (immJ w)⟩,
  ⟨"JALR", 0x0000707F#32, 0x00000067#32, fun w => .jalr (rdOf w) (rs1Of w) (immI w)⟩,
  ⟨"BEQ", 0x0000707F#32, 0x00000063#32, fun w => .beq (rs1Of w) (rs2Of w) (immB w)⟩,
  ⟨"BNE", 0x0000707F#32, 0x00001063#32, fun w => .bne (rs1Of w) (rs2Of w) (immB w)⟩,
  ⟨"BLT", 0x0000707F#32, 0x00004063#32, fun w => .blt (rs1Of w) (rs2Of w) (immB w)⟩,
  ⟨"BGE", 0x0000707F#32, 0x00005063#32, fun w => .bge (rs1Of w) (rs2Of w) (immB w)⟩,
  ⟨"BLTU", 0x0000707F#32, 0x00006063#32, fun w => .bltu (rs1Of w) (rs2Of w) (immB w)⟩,
  ⟨"BGEU", 0x0000707F#32, 0x00007063#32, fun w => .bgeu (rs1Of w) (rs2Of w) (immB w)⟩]

/-- Rows of the LOAD and STORE groups (R98, R101). -/
def rowsLoadStore : List Row := [
  ⟨"LB", 0x0000707F#32, 0x00000003#32, fun w => .lb (rdOf w) (rs1Of w) (immI w)⟩,
  ⟨"LH", 0x0000707F#32, 0x00001003#32, fun w => .lh (rdOf w) (rs1Of w) (immI w)⟩,
  ⟨"LW", 0x0000707F#32, 0x00002003#32, fun w => .lw (rdOf w) (rs1Of w) (immI w)⟩,
  ⟨"LD", 0x0000707F#32, 0x00003003#32, fun w => .ld (rdOf w) (rs1Of w) (immI w)⟩,
  ⟨"LBU", 0x0000707F#32, 0x00004003#32, fun w => .lbu (rdOf w) (rs1Of w) (immI w)⟩,
  ⟨"LHU", 0x0000707F#32, 0x00005003#32, fun w => .lhu (rdOf w) (rs1Of w) (immI w)⟩,
  ⟨"LWU", 0x0000707F#32, 0x00006003#32, fun w => .lwu (rdOf w) (rs1Of w) (immI w)⟩,
  ⟨"SB", 0x0000707F#32, 0x00000023#32, fun w => .sb (rs1Of w) (rs2Of w) (immS w)⟩,
  ⟨"SH", 0x0000707F#32, 0x00001023#32, fun w => .sh (rs1Of w) (rs2Of w) (immS w)⟩,
  ⟨"SW", 0x0000707F#32, 0x00002023#32, fun w => .sw (rs1Of w) (rs2Of w) (immS w)⟩,
  ⟨"SD", 0x0000707F#32, 0x00003023#32, fun w => .sd (rs1Of w) (rs2Of w) (immS w)⟩]

/-- Rows of the OP-IMM and OP-IMM-32 groups (R99, R100). -/
def rowsOpImm : List Row := [
  ⟨"ADDI", 0x0000707F#32, 0x00000013#32, fun w => .addi (rdOf w) (rs1Of w) (immI w)⟩,
  ⟨"SLTI", 0x0000707F#32, 0x00002013#32, fun w => .slti (rdOf w) (rs1Of w) (immI w)⟩,
  ⟨"SLTIU", 0x0000707F#32, 0x00003013#32, fun w => .sltiu (rdOf w) (rs1Of w) (immI w)⟩,
  ⟨"XORI", 0x0000707F#32, 0x00004013#32, fun w => .xori (rdOf w) (rs1Of w) (immI w)⟩,
  ⟨"ORI", 0x0000707F#32, 0x00006013#32, fun w => .ori (rdOf w) (rs1Of w) (immI w)⟩,
  ⟨"ANDI", 0x0000707F#32, 0x00007013#32, fun w => .andi (rdOf w) (rs1Of w) (immI w)⟩,
  ⟨"SLLI", 0xFC00707F#32, 0x00001013#32, fun w => .slli (rdOf w) (rs1Of w) (shamt6 w)⟩,
  ⟨"SRLI", 0xFC00707F#32, 0x00005013#32, fun w => .srli (rdOf w) (rs1Of w) (shamt6 w)⟩,
  ⟨"SRAI", 0xFC00707F#32, 0x40005013#32, fun w => .srai (rdOf w) (rs1Of w) (shamt6 w)⟩,
  ⟨"ADDIW", 0x0000707F#32, 0x0000001B#32, fun w => .addiw (rdOf w) (rs1Of w) (immI w)⟩,
  ⟨"SLLIW", 0xFE00707F#32, 0x0000101B#32, fun w => .slliw (rdOf w) (rs1Of w) (shamt5 w)⟩,
  ⟨"SRLIW", 0xFE00707F#32, 0x0000501B#32, fun w => .srliw (rdOf w) (rs1Of w) (shamt5 w)⟩,
  ⟨"SRAIW", 0xFE00707F#32, 0x4000501B#32, fun w => .sraiw (rdOf w) (rs1Of w) (shamt5 w)⟩]

/-- Rows of the OP and OP-32 groups, funct7 0000000 and 0100000 (R102, R103). -/
def rowsOp : List Row := [
  ⟨"ADD", 0xFE00707F#32, 0x00000033#32, fun w => .add (rdOf w) (rs1Of w) (rs2Of w)⟩,
  ⟨"SUB", 0xFE00707F#32, 0x40000033#32, fun w => .sub (rdOf w) (rs1Of w) (rs2Of w)⟩,
  ⟨"SLL", 0xFE00707F#32, 0x00001033#32, fun w => .sll (rdOf w) (rs1Of w) (rs2Of w)⟩,
  ⟨"SLT", 0xFE00707F#32, 0x00002033#32, fun w => .slt (rdOf w) (rs1Of w) (rs2Of w)⟩,
  ⟨"SLTU", 0xFE00707F#32, 0x00003033#32, fun w => .sltu (rdOf w) (rs1Of w) (rs2Of w)⟩,
  ⟨"XOR", 0xFE00707F#32, 0x00004033#32, fun w => .xor (rdOf w) (rs1Of w) (rs2Of w)⟩,
  ⟨"SRL", 0xFE00707F#32, 0x00005033#32, fun w => .srl (rdOf w) (rs1Of w) (rs2Of w)⟩,
  ⟨"SRA", 0xFE00707F#32, 0x40005033#32, fun w => .sra (rdOf w) (rs1Of w) (rs2Of w)⟩,
  ⟨"OR", 0xFE00707F#32, 0x00006033#32, fun w => .or (rdOf w) (rs1Of w) (rs2Of w)⟩,
  ⟨"AND", 0xFE00707F#32, 0x00007033#32, fun w => .and (rdOf w) (rs1Of w) (rs2Of w)⟩,
  ⟨"ADDW", 0xFE00707F#32, 0x0000003B#32, fun w => .addw (rdOf w) (rs1Of w) (rs2Of w)⟩,
  ⟨"SUBW", 0xFE00707F#32, 0x4000003B#32, fun w => .subw (rdOf w) (rs1Of w) (rs2Of w)⟩,
  ⟨"SLLW", 0xFE00707F#32, 0x0000103B#32, fun w => .sllw (rdOf w) (rs1Of w) (rs2Of w)⟩,
  ⟨"SRLW", 0xFE00707F#32, 0x0000503B#32, fun w => .srlw (rdOf w) (rs1Of w) (rs2Of w)⟩,
  ⟨"SRAW", 0xFE00707F#32, 0x4000503B#32, fun w => .sraw (rdOf w) (rs1Of w) (rs2Of w)⟩]

/-- Rows of the OP and OP-32 groups, funct7 0000001 (R102, R103). -/
def rowsMulDiv : List Row := [
  ⟨"MUL", 0xFE00707F#32, 0x02000033#32, fun w => .mul (rdOf w) (rs1Of w) (rs2Of w)⟩,
  ⟨"MULH", 0xFE00707F#32, 0x02001033#32, fun w => .mulh (rdOf w) (rs1Of w) (rs2Of w)⟩,
  ⟨"MULHSU", 0xFE00707F#32, 0x02002033#32, fun w => .mulhsu (rdOf w) (rs1Of w) (rs2Of w)⟩,
  ⟨"MULHU", 0xFE00707F#32, 0x02003033#32, fun w => .mulhu (rdOf w) (rs1Of w) (rs2Of w)⟩,
  ⟨"DIV", 0xFE00707F#32, 0x02004033#32, fun w => .div (rdOf w) (rs1Of w) (rs2Of w)⟩,
  ⟨"DIVU", 0xFE00707F#32, 0x02005033#32, fun w => .divu (rdOf w) (rs1Of w) (rs2Of w)⟩,
  ⟨"REM", 0xFE00707F#32, 0x02006033#32, fun w => .rem (rdOf w) (rs1Of w) (rs2Of w)⟩,
  ⟨"REMU", 0xFE00707F#32, 0x02007033#32, fun w => .remu (rdOf w) (rs1Of w) (rs2Of w)⟩,
  ⟨"MULW", 0xFE00707F#32, 0x0200003B#32, fun w => .mulw (rdOf w) (rs1Of w) (rs2Of w)⟩,
  ⟨"DIVW", 0xFE00707F#32, 0x0200403B#32, fun w => .divw (rdOf w) (rs1Of w) (rs2Of w)⟩,
  ⟨"DIVUW", 0xFE00707F#32, 0x0200503B#32, fun w => .divuw (rdOf w) (rs1Of w) (rs2Of w)⟩,
  ⟨"REMW", 0xFE00707F#32, 0x0200603B#32, fun w => .remw (rdOf w) (rs1Of w) (rs2Of w)⟩,
  ⟨"REMUW", 0xFE00707F#32, 0x0200703B#32, fun w => .remuw (rdOf w) (rs1Of w) (rs2Of w)⟩]

/-- Rows of the MISC-MEM and SYSTEM groups (R108, R109). -/
def rowsCsrFence : List Row := [
  ⟨"FENCE", 0x0000707F#32, 0x0000000F#32, fun _ => .fence⟩,
  ⟨"FENCE.I", 0x0000707F#32, 0x0000100F#32, fun _ => .fenceI⟩,
  ⟨"CSRRW", 0x0000707F#32, 0x00001073#32, fun w => .csrrw (rdOf w) (rs1Of w) (csrOf w)⟩,
  ⟨"CSRRS", 0x0000707F#32, 0x00002073#32, fun w => .csrrs (rdOf w) (rs1Of w) (csrOf w)⟩,
  ⟨"CSRRC", 0x0000707F#32, 0x00003073#32, fun w => .csrrc (rdOf w) (rs1Of w) (csrOf w)⟩,
  ⟨"CSRRWI", 0x0000707F#32, 0x00005073#32, fun w => .csrrwi (rdOf w) (uimmOf w) (csrOf w)⟩,
  ⟨"CSRRSI", 0x0000707F#32, 0x00006073#32, fun w => .csrrsi (rdOf w) (uimmOf w) (csrOf w)⟩,
  ⟨"CSRRCI", 0x0000707F#32, 0x00007073#32, fun w => .csrrci (rdOf w) (uimmOf w) (csrOf w)⟩]

/-- Rows of the AMO group (R110). -/
def rowsAtomic : List Row := [
  ⟨"LR.W", 0xF9F0707F#32, 0x1000202F#32, fun w => .lrW (rdOf w) (rs1Of w)⟩,
  ⟨"SC.W", 0xF800707F#32, 0x1800202F#32, fun w => .scW (rdOf w) (rs1Of w) (rs2Of w)⟩,
  ⟨"AMOSWAP.W", 0xF800707F#32, 0x0800202F#32, fun w => .amoswapW (rdOf w) (rs1Of w) (rs2Of w)⟩,
  ⟨"AMOADD.W", 0xF800707F#32, 0x0000202F#32, fun w => .amoaddW (rdOf w) (rs1Of w) (rs2Of w)⟩,
  ⟨"AMOXOR.W", 0xF800707F#32, 0x2000202F#32, fun w => .amoxorW (rdOf w) (rs1Of w) (rs2Of w)⟩,
  ⟨"AMOAND.W", 0xF800707F#32, 0x6000202F#32, fun w => .amoandW (rdOf w) (rs1Of w) (rs2Of w)⟩,
  ⟨"AMOOR.W", 0xF800707F#32, 0x4000202F#32, fun w => .amoorW (rdOf w) (rs1Of w) (rs2Of w)⟩,
  ⟨"AMOMIN.W", 0xF800707F#32, 0x8000202F#32, fun w => .amominW (rdOf w) (rs1Of w) (rs2Of w)⟩,
  ⟨"AMOMAX.W", 0xF800707F#32, 0xA000202F#32, fun w => .amomaxW (rdOf w) (rs1Of w) (rs2Of w)⟩,
  ⟨"AMOMINU.W", 0xF800707F#32, 0xC000202F#32, fun w => .amominuW (rdOf w) (rs1Of w) (rs2Of w)⟩,
  ⟨"AMOMAXU.W", 0xF800707F#32, 0xE000202F#32, fun w => .amomaxuW (rdOf w) (rs1Of w) (rs2Of w)⟩,
  ⟨"LR.D", 0xF9F0707F#32, 0x1000302F#32, fun w => .lrD (rdOf w) (rs1Of w)⟩,
  ⟨"SC.D", 0xF800707F#32, 0x1800302F#32, fun w => .scD (rdOf w) (rs1Of w) (rs2Of w)⟩,
  ⟨"AMOSWAP.D", 0xF800707F#32, 0x0800302F#32, fun w => .amoswapD (rdOf w) (rs1Of w) (rs2Of w)⟩,
  ⟨"AMOADD.D", 0xF800707F#32, 0x0000302F#32, fun w => .amoaddD (rdOf w) (rs1Of w) (rs2Of w)⟩,
  ⟨"AMOXOR.D", 0xF800707F#32, 0x2000302F#32, fun w => .amoxorD (rdOf w) (rs1Of w) (rs2Of w)⟩,
  ⟨"AMOAND.D", 0xF800707F#32, 0x6000302F#32, fun w => .amoandD (rdOf w) (rs1Of w) (rs2Of w)⟩,
  ⟨"AMOOR.D", 0xF800707F#32, 0x4000302F#32, fun w => .amoorD (rdOf w) (rs1Of w) (rs2Of w)⟩,
  ⟨"AMOMIN.D", 0xF800707F#32, 0x8000302F#32, fun w => .amominD (rdOf w) (rs1Of w) (rs2Of w)⟩,
  ⟨"AMOMAX.D", 0xF800707F#32, 0xA000302F#32, fun w => .amomaxD (rdOf w) (rs1Of w) (rs2Of w)⟩,
  ⟨"AMOMINU.D", 0xF800707F#32, 0xC000302F#32, fun w => .amominuD (rdOf w) (rs1Of w) (rs2Of w)⟩,
  ⟨"AMOMAXU.D", 0xF800707F#32, 0xE000302F#32, fun w => .amomaxuD (rdOf w) (rs1Of w) (rs2Of w)⟩]

/-- Rows of the LOAD-FP, STORE-FP, fused and OP-FP groups (R111 to R113). -/
def rowsFloat : List Row := [
  ⟨"FLW", 0x0000707F#32, 0x00002007#32, fun w => .flw (rdOf w) (rs1Of w) (immI w)⟩,
  ⟨"FSW", 0x0000707F#32, 0x00002027#32, fun w => .fsw (rs1Of w) (rs2Of w) (immS w)⟩,
  ⟨"FMADD.S", 0x0600007F#32, 0x00000043#32, fun w => .fmaddS (rdOf w) (rs1Of w) (rs2Of w) (rs3Of w)⟩,
  ⟨"FMSUB.S", 0x0600007F#32, 0x00000047#32, fun w => .fmsubS (rdOf w) (rs1Of w) (rs2Of w) (rs3Of w)⟩,
  ⟨"FNMSUB.S", 0x0600007F#32, 0x0000004B#32, fun w => .fnmsubS (rdOf w) (rs1Of w) (rs2Of w) (rs3Of w)⟩,
  ⟨"FNMADD.S", 0x0600007F#32, 0x0000004F#32, fun w => .fnmaddS (rdOf w) (rs1Of w) (rs2Of w) (rs3Of w)⟩,
  ⟨"FADD.S", 0xFE00007F#32, 0x00000053#32, fun w => .faddS (rdOf w) (rs1Of w) (rs2Of w)⟩,
  ⟨"FSUB.S", 0xFE00007F#32, 0x08000053#32, fun w => .fsubS (rdOf w) (rs1Of w) (rs2Of w)⟩,
  ⟨"FMUL.S", 0xFE00007F#32, 0x10000053#32, fun w => .fmulS (rdOf w) (rs1Of w) (rs2Of w)⟩,
  ⟨"FDIV.S", 0xFE00007F#32, 0x18000053#32, fun w => .fdivS (rdOf w) (rs1Of w) (rs2Of w)⟩,
  ⟨"FSQRT.S", 0xFFF0007F#32, 0x58000053#32, fun w => .fsqrtS (rdOf w) (rs1Of w)⟩,
  ⟨"FSGNJ.S", 0xFE00707F#32, 0x20000053#32, fun w => .fsgnjS (rdOf w) (rs1Of w) (rs2Of w)⟩,
  ⟨"FSGNJN.S", 0xFE00707F#32, 0x20001053#32, fun w => .fsgnjnS (rdOf w) (rs1Of w) (rs2Of w)⟩,
  ⟨"FSGNJX.S", 0xFE00707F#32, 0x20002053#32, fun w => .fsgnjxS (rdOf w) (rs1Of w) (rs2Of w)⟩,
  ⟨"FMIN.S", 0xFE00707F#32, 0x28000053#32, fun w => .fminS (rdOf w) (rs1Of w) (rs2Of w)⟩,
  ⟨"FMAX.S", 0xFE00707F#32, 0x28001053#32, fun w => .fmaxS (rdOf w) (rs1Of w) (rs2Of w)⟩,
  ⟨"FCVT.W.S", 0xFFF0007F#32, 0xC0000053#32, fun w => .fcvtWS (rdOf w) (rs1Of w)⟩,
  ⟨"FCVT.WU.S", 0xFFF0007F#32, 0xC0100053#32, fun w => .fcvtWuS (rdOf w) (rs1Of w)⟩,
  ⟨"FCVT.L.S", 0xFFF0007F#32, 0xC0200053#32, fun w => .fcvtLS (rdOf w) (rs1Of w)⟩,
  ⟨"FCVT.LU.S", 0xFFF0007F#32, 0xC0300053#32, fun w => .fcvtLuS (rdOf w) (rs1Of w)⟩,
  ⟨"FMV.X.W", 0xFFF0707F#32, 0xE0000053#32, fun w => .fmvXW (rdOf w) (rs1Of w)⟩,
  ⟨"FEQ.S", 0xFE00707F#32, 0xA0002053#32, fun w => .feqS (rdOf w) (rs1Of w) (rs2Of w)⟩,
  ⟨"FLT.S", 0xFE00707F#32, 0xA0001053#32, fun w => .fltS (rdOf w) (rs1Of w) (rs2Of w)⟩,
  ⟨"FLE.S", 0xFE00707F#32, 0xA0000053#32, fun w => .fleS (rdOf w) (rs1Of w) (rs2Of w)⟩,
  ⟨"FCLASS.S", 0xFFF0707F#32, 0xE0001053#32, fun w => .fclassS (rdOf w) (rs1Of w)⟩,
  ⟨"FCVT.S.W", 0xFFF0007F#32, 0xD0000053#32, fun w => .fcvtSW (rdOf w) (rs1Of w) (rmOf w)⟩,
  ⟨"FCVT.S.WU", 0xFFF0007F#32, 0xD0100053#32, fun w => .fcvtSWu (rdOf w) (rs1Of w) (rmOf w)⟩,
  ⟨"FCVT.S.L", 0xFFF0007F#32, 0xD0200053#32, fun w => .fcvtSL (rdOf w) (rs1Of w) (rmOf w)⟩,
  ⟨"FCVT.S.LU", 0xFFF0007F#32, 0xD0300053#32, fun w => .fcvtSLu (rdOf w) (rs1Of w) (rmOf w)⟩,
  ⟨"FMV.W.X", 0xFFF0707F#32, 0xF0000053#32, fun w => .fmvWX (rdOf w) (rs1Of w)⟩]

/-- The whole table, 122 rows. -/
def rows : List Row :=
  rowsControl ++ rowsLoadStore ++ rowsOpImm ++ rowsOp ++ rowsMulDiv ++ rowsCsrFence ++ rowsAtomic ++ rowsFloat

/-- The 21 primary opcodes of R97. -/
def primaryOpcodes : List (BitVec 7) :=
  [0x03#7, 0x07#7, 0x0F#7, 0x13#7, 0x17#7, 0x1B#7, 0x23#7, 0x27#7, 0x2F#7, 0x33#7, 0x37#7, 0x3B#7, 0x43#7, 0x47#7,
   0x4B#7, 0x4F#7, 0x53#7, 0x63#7, 0x67#7, 0x6F#7, 0x73#7]

/-- Why the decoder delivers no instruction. The machine raises DecodeError for the last two (R341); the first
cannot arise in a fetch, which always delivers four bytes. -/
inductive Reject where
  /-- fewer than four bytes were given (R121: every instruction is 32 bits long) -/
  | tooShort
  /-- inst[6:0] is no primary opcode of R97 -/
  | unknownOpcode (w : Word32)
  /-- the primary opcode exists; no combination of its sub-fields is defined (R341) -/
  | unknownFunct (w : Word32)
  deriving DecidableEq, Repr

/-- R114: "A word is decoded by finding the row with `word & mask == match`; if none, DecodeError." -/
def decode (w : Word32) : Except Reject Instr :=
  match rows.find? (fun r => r.accepts w) with
  | some r => .ok (r.build w)
  | none => if primaryOpcodes.contains (w.extractLsb' 0 7) then .error (.unknownFunct w) else .error (.unknownOpcode w)

/-- The decoder on a sequence of bytes, lowest address first: one little-endian 32-bit word (R53, R121), and the
bytes after it. -/
def decodeBytes : List Byte → Except Reject (Instr × List Byte)
  | b0 :: b1 :: b2 :: b3 :: rest =>
    match decode (b3 ++ b2 ++ b1 ++ b0) with
    | .ok i => .ok (i, rest)
    | .error e => .error e
  | _ => .error .tooShort

/-! ### The encoder: the layouts of R83 to R89, field by field -/

/-- Field v with its least significant bit at bit pos of the instruction word. -/
def place (pos : Nat) {n : Nat} (v : BitVec n) : Word32 := v.setWidth 32 <<< pos

/-- R format (R83): funct7 31:25, rs2 24:20, rs1 19:15, funct3 14:12, rd 11:7, opcode 6:0. -/
def encR (f7 : BitVec 7) (rs2 rs1 : BitVec 5) (f3 : BitVec 3) (rd : BitVec 5) (op : BitVec 7) : Word32 :=
  place 25 f7 ||| place 20 rs2 ||| place 15 rs1 ||| place 12 f3 ||| place 7 rd ||| place 0 op

/-- AMO rows (R83, R110): funct5 31:27, aq 26, rl 25; aq and rl are ignored (R117) and encoded 0. -/
def encAmo (f5 : BitVec 5) (rs2 rs1 : BitVec 5) (f3 : BitVec 3) (rd : BitVec 5) : Word32 :=
  encR (f5 ++ 0b00#2) rs2 rs1 f3 rd 0b0101111#7

/-- R4 format (R84): rs3 31:27, funct2 26:25, rs2, rs1, rm, rd, opcode. -/
def encR4 (rs3 : BitVec 5) (f2 : BitVec 2) (rs2 rs1 : BitVec 5) (rm : BitVec 3) (rd : BitVec 5) (op : BitVec 7) :
    Word32 :=
  place 27 rs3 ||| place 25 f2 ||| place 20 rs2 ||| place 15 rs1 ||| place 12 rm ||| place 7 rd ||| place 0 op

/-- I format (R85): imm[11:0] 31:20, rs1, funct3, rd, opcode. -/
def encI (imm : BitVec 12) (rs1 : BitVec 5) (f3 : BitVec 3) (rd : BitVec 5) (op : BitVec 7) : Word32 :=
  place 20 imm ||| place 15 rs1 ||| place 12 f3 ||| place 7 rd ||| place 0 op

/-- S format (R86): imm[11:5] 31:25, rs2, rs1, funct3, imm[4:0] 11:7, opcode. -/
def encS (imm : BitVec 12) (rs2 rs1 : BitVec 5) (f3 : BitVec 3) (op : BitVec 7) : Word32 :=
  place 25 (imm.extractLsb' 5 7) ||| place 20 rs2 ||| place 15 rs1 ||| place 12 f3 |||
    place 7 (imm.extractLsb' 0 5) ||| place 0 op

/-- B format (R87) on the pre-halved immediate k = boff >> 1: boff[12] 31, boff[10:5] 30:25, rs2, rs1, funct3,
boff[4:1] 11:8, boff[11] 7, opcode. -/
def encB (k : BitVec 12) (rs2 rs1 : BitVec 5) (f3 : BitVec 3) (op : BitVec 7) : Word32 :=
  place 31 (k.extractLsb' 11 1) ||| place 25 (k.extractLsb' 4 6) ||| place 20 rs2 ||| place 15 rs1 |||
    place 12 f3 ||| place 8 (k.extractLsb' 0 4) ||| place 7 (k.extractLsb' 10 1) ||| place 0 op

/-- U format (R88): imm[19:0] 31:12, rd, opcode. -/
def encU (imm : BitVec 20) (rd : BitVec 5) (op : BitVec 7) : Word32 :=
  place 12 imm ||| place 7 rd ||| place 0 op

/-- J format (R89): joff[20] 31, joff[10:1] 30:21, joff[11] 20, joff[19:12] 19:12, rd, opcode. -/
def encJ (joff : BitVec 21) (rd : BitVec 5) (op : BitVec 7) : Word32 :=
  place 31 (joff.extractLsb' 20 1) ||| place 21 (joff.extractLsb' 1 10) ||| place 20 (joff.extractLsb' 11 1) |||
    place 12 (joff.extractLsb' 12 8) ||| place 7 rd ||| place 0 op

/-- The rm field of the forms that ignore it (R117, R244 (a), (b)), encoded 000. -/
def rmIgnored : BitVec 3 := 0b000#3

/-- The instruction word of a well-formed instruction (R124), with every ignored bit 0. -/
def encode : Instr → Word32
  | .lui rd imm => encU (imm.setWidth 20) rd.bits 0b0110111#7
  | .auipc rd imm => encU (imm.setWidth 20) rd.bits 0b0010111#7
  | .jal rd joff => encJ (joff.setWidth 21) rd.bits 0b1101111#7
  | .jalr rd rs1 imm => encI (imm.setWidth 12) rs1.bits 0b000#3 rd.bits 0b1100111#7
  | .beq rs1 rs2 k => encB (k.setWidth 12) rs2.bits rs1.bits 0b000#3 0b1100011#7
  | .bne rs1 rs2 k => encB (k.setWidth 12) rs2.bits rs1.bits 0b001#3 0b1100011#7
  | .blt rs1 rs2 k => encB (k.setWidth 12) rs2.bits rs1.bits 0b100#3 0b1100011#7
  | .bge rs1 rs2 k => encB (k.setWidth 12) rs2.bits rs1.bits 0b101#3 0b1100011#7
  | .bltu rs1 rs2 k => encB (k.setWidth 12) rs2.bits rs1.bits 0b110#3 0b1100011#7
  | .bgeu rs1 rs2 k => encB (k.setWidth 12) rs2.bits rs1.bits 0b111#3 0b1100011#7
  | .lb rd rs1 imm => encI (imm.setWidth 12) rs1.bits 0b000#3 rd.bits 0b0000011#7
  | .lh rd rs1 imm => encI (imm.setWidth 12) rs1.bits 0b001#3 rd.bits 0b0000011#7
  | .lw rd rs1 imm => encI (imm.setWidth 12) rs1.bits 0b010#3 rd.bits 0b0000011#7
  | .ld rd rs1 imm => encI (imm.setWidth 12) rs1.bits 0b011#3 rd.bits 0b0000011#7
  | .lbu rd rs1 imm => encI (imm.setWidth 12) rs1.bits 0b100#3 rd.bits 0b0000011#7
  | .lhu rd rs1 imm => encI (imm.setWidth 12) rs1.bits 0b101#3 rd.bits 0b0000011#7
  | .lwu rd rs1 imm => encI (imm.setWidth 12) rs1.bits 0b110#3 rd.bits 0b0000011#7
  | .sb rs1 rs2 imm => encS (imm.setWidth 12) rs2.bits rs1.bits 0b000#3 0b0100011#7
  | .sh rs1 rs2 imm => encS (imm.setWidth 12) rs2.bits rs1.bits 0b001#3 0b0100011#7
  | .sw rs1 rs2 imm => encS (imm.setWidth 12) rs2.bits rs1.bits 0b010#3 0b0100011#7
  | .sd rs1 rs2 imm => encS (imm.setWidth 12) rs2.bits rs1.bits 0b011#3 0b0100011#7
  | .addi rd rs1 imm => encI (imm.setWidth 12) rs1.bits 0b000#3 rd.bits 0b0010011#7
  | .slti rd rs1 imm => encI (imm.setWidth 12) rs1.bits 0b010#3 rd.bits 0b0010011#7
  | .sltiu rd rs1 imm => encI (imm.setWidth 12) rs1.bits 0b011#3 rd.bits 0b0010011#7
  | .xori rd rs1 imm => encI (imm.setWidth 12) rs1.bits 0b100#3 rd.bits 0b0010011#7
  | .ori rd rs1 imm => encI (imm.setWidth 12) rs1.bits 0b110#3 rd.bits 0b0010011#7
  | .andi rd rs1 imm => encI (imm.setWidth 12) rs1.bits 0b111#3 rd.bits 0b0010011#7
  | .slli rd rs1 shamt => encI (0b000000#6 ++ shamt.setWidth 6) rs1.bits 0b001#3 rd.bits 0b0010011#7
  | .srli rd rs1 shamt => encI (0b000000#6 ++ shamt.setWidth 6) rs1.bits 0b101#3 rd.bits 0b0010011#7
  | .srai rd rs1 shamt => encI (0b010000#6 ++ shamt.setWidth 6) rs1.bits 0b101#3 rd.bits 0b0010011#7
  | .add rd rs1 rs2 => encR 0b0000000#7 rs2.bits rs1.bits 0b000#3 rd.bits 0b0110011#7
  | .sub rd rs1 rs2 => encR 0b0100000#7 rs2.bits rs1.bits 0b000#3 rd.bits 0b0110011#7
  | .sll rd rs1 rs2 => encR 0b0000000#7 rs2.bits rs1.bits 0b001#3 rd.bits 0b0110011#7
  | .slt rd rs1 rs2 => encR 0b0000000#7 rs2.bits rs1.bits 0b010#3 rd.bits 0b0110011#7
  | .sltu rd rs1 rs2 => encR 0b0000000#7 rs2.bits rs1.bits 0b011#3 rd.bits 0b0110011#7
  | .xor rd rs1 rs2 => encR 0b0000000#7 rs2.bits rs1.bits 0b100#3 rd.bits 0b0110011#7
  | .srl rd rs1 rs2 => encR 0b0000000#7 rs2.bits rs1.bits 0b101#3 rd.bits 0b0110011#7
  | .sra rd rs1 rs2 => encR 0b0100000#7 rs2.bits rs1.bits 0b101#3 rd.bits 0b0110011#7
  | .or rd rs1 rs2 => encR 0b0000000#7 rs2.bits rs1.bits 0b110#3 rd.bits 0b0110011#7
  | .and rd rs1 rs2 => encR 0b0000000#7 rs2.bits rs1.bits 0b111#3 rd.bits 0b0110011#7
  | .addiw rd rs1 imm => encI (imm.setWidth 12) rs1.bits 0b000#3 rd.bits 0b0011011#7
  | .slliw rd rs1 shamt => encR 0b0000000#7 (shamt.setWidth 5) rs1.bits 0b001#3 rd.bits 0b0011011#7
  | .srliw rd rs1 shamt => encR 0b0000000#7 (shamt.setWidth 5) rs1.bits 0b101#3 rd.bits 0b0011011#7
  | .sraiw rd rs1 shamt => encR 0b0100000#7 (shamt.setWidth 5) rs1.bits 0b101#3 rd.bits 0b0011011#7
  | .addw rd rs1 rs2 => encR 0b0000000#7 rs2.bits rs1.bits 0b000#3 rd.bits 0b0111011#7
  | .subw rd rs1 rs2 => encR 0b0100000#7 rs2.bits rs1.bits 0b000#3 rd.bits 0b0111011#7
  | .sllw rd rs1 rs2 => encR 0b0000000#7 rs2.bits rs1.bits 0b001#3 rd.bits 0b0111011#7
  | .srlw rd rs1 rs2 => encR 0b0000000#7 rs2.bits rs1.bits 0b101#3 rd.bits 0b0111011#7
  | .sraw rd rs1 rs2 => encR 0b0100000#7 rs2.bits rs1.bits 0b101#3 rd.bits 0b0111011#7
  | .fence => encI 0#12 0#5 0b000#3 0#5 0b0001111#7
  | .fenceI => encI 0#12 0#5 0b001#3 0#5 0b0001111#7
  | .csrrw rd rs1 csr => encI csr rs1.bits 0b001#3 rd.bits 0b1110011#7
  | .csrrs rd rs1 csr => encI csr rs1.bits 0b010#3 rd.bits 0b1110011#7
  | .csrrc rd rs1 csr => encI csr rs1.bits 0b011#3 rd.bits 0b1110011#7
  | .csrrwi rd uimm csr => encI csr uimm 0b101#3 rd.bits 0b1110011#7
  | .csrrsi rd uimm csr => encI csr uimm 0b110#3 rd.bits 0b1110011#7
  | .csrrci rd uimm csr => encI csr uimm 0b111#3 rd.bits 0b1110011#7
  | .mul rd rs1 rs2 => encR 0b0000001#7 rs2.bits rs1.bits 0b000#3 rd.bits 0b0110011#7
  | .mulh rd rs1 rs2 => encR 0b0000001#7 rs2.bits rs1.bits 0b001#3 rd.bits 0b0110011#7
  | .mulhsu rd rs1 rs2 => encR 0b0000001#7 rs2.bits rs1.bits 0b010#3 rd.bits 0b0110011#7
  | .mulhu rd rs1 rs2 => encR 0b0000001#7 rs2.bits rs1.bits 0b011#3 rd.bits 0b0110011#7
  | .div rd rs1 rs2 => encR 0b0000001#7 rs2.bits rs1.bits 0b100#3 rd.bits 0b0110011#7
  | .divu rd rs1 rs2 => encR 0b0000001#7 rs2.bits rs1.bits 0b101#3 rd.bits 0b0110011#7
  | .rem rd rs1 rs2 => encR 0b0000001#7 rs2.bits rs1.bits 0b110#3 rd.bits 0b0110011#7
  | .remu rd rs1 rs2 => encR 0b0000001#7 rs2.bits rs1.bits 0b111#3 rd.bits 0b0110011#7
  | .mulw rd rs1 rs2 => encR 0b0000001#7 rs2.bits rs1.bits 0b000#3 rd.bits 0b0111011#7
  | .divw rd rs1 rs2 => encR 0b0000001#7 rs2.bits rs1.bits 0b100#3 rd.bits 0b0111011#7
  | .divuw rd rs1 rs2 => encR 0b0000001#7 rs2.bits rs1.bits 0b101#3 rd.bits 0b0111011#7
  | .remw rd rs1 rs2 => encR 0b0000001#7 rs2.bits rs1.bits 0b110#3 rd.bits 0b0111011#7
  | .remuw rd rs1 rs2 => encR 0b0000001#7 rs2.bits rs1.bits 0b111#3 rd.bits 0b0111011#7
  | .lrW rd rs1 => encAmo 0b00010#5 0b00000#5 rs1.bits 0b010#3 rd.bits
  | .scW rd rs1 rs2 => encAmo 0b00011#5 rs2.bits rs1.bits 0b010#3 rd.bits
  | .amoswapW rd rs1 rs2 => encAmo 0b00001#5 rs2.bits rs1.bits 0b010#3 rd.bits
  | .amoaddW rd rs1 rs2 => encAmo 0b00000#5 rs2.bits rs1.bits 0b010#3 rd.bits
  | .amoxorW rd rs1 rs2 => encAmo 0b00100#5 rs2.bits rs1.bits 0b010#3 rd.bits
  | .amoandW rd rs1 rs2 => encAmo 0b01100#5 rs2.bits rs1.bits 0b010#3 rd.bits
  | .amoorW rd rs1 rs2 => encAmo 0b01000#5 rs2.bits rs1.bits 0b010#3 rd.bits
  | .amominW rd rs1 rs2 => encAmo 0b10000#5 rs2.bits rs1.bits 0b010#3 rd.bits
  | .amomaxW rd rs1 rs2 => encAmo 0b10100#5 rs2.bits rs1.bits 0b010#3 rd.bits
  | .amominuW rd rs1 rs2 => encAmo 0b11000#5 rs2.bits rs1.bits 0b010#3 rd.bits
  | .amomaxuW rd rs1 rs2 => encAmo 0b11100#5 rs2.bits rs1.bits 0b010#3 rd.bits
  | .lrD rd rs1 => encAmo 0b00010#5 0b00000#5 rs1.bits 0b011#3 rd.bits
  | .scD rd rs1 rs2 => encAmo 0b00011#5 rs2.bits rs1.bits 0b011#3 rd.bits
  | .amoswapD rd rs1 rs2 => encAmo 0b00001#5 rs2.bits rs1.bits 0b011#3 rd.bits
  | .amoaddD rd rs1 rs2 => encAmo 0b00000#5 rs2.bits rs1.bits 0b011#3 rd.bits
  | .amoxorD rd rs1 rs2 => encAmo 0b00100#5 rs2.bits rs1.bits 0b011#3 rd.bits
  | .amoandD rd rs1 rs2 => encAmo 0b01100#5 rs2.bits rs1.bits 0b011#3 rd.bits
  | .amoorD rd rs1 rs2 => encAmo 0b01000#5 rs2.bits rs1.bits 0b011#3 rd.bits
  | .amominD rd rs1 rs2 => encAmo 0b10000#5 rs2.bits rs1.bits 0b011#3 rd.bits
  | .amomaxD rd rs1 rs2 => encAmo 0b10100#5 rs2.bits rs1.bits 0b011#3 rd.bits
  | .amominuD rd rs1 rs2 => encAmo 0b11000#5 rs2.bits rs1.bits 0b011#3 rd.bits
  | .amomaxuD rd rs1 rs2 => encAmo 0b11100#5 rs2.bits rs1.bits 0b011#3 rd.bits
  | .flw rd rs1 imm => encI (imm.setWidth 12) rs1.bits 0b010#3 rd.bits 0b0000111#7
  | .fsw rs1 rs2 imm => encS (imm.setWidth 12) rs2.bits rs1.bits 0b010#3 0b0100111#7
  | .fmaddS rd rs1 rs2 rs3 => encR4 rs3.bits 0b00#2 rs2.bits rs1.bits rmIgnored rd.bits 0b1000011#7
  | .fmsubS rd rs1 rs2 rs3 => encR4 rs3.bits 0b00#2 rs2.bits rs1.bits rmIgnored rd.bits 0b1000111#7
  | .fnmsubS rd rs1 rs2 rs3 => encR4 rs3.bits 0b00#2 rs2.bits rs1.bits rmIgnored rd.bits 0b1001011#7
  | .fnmaddS rd rs1 rs2 rs3 => encR4 rs3.bits 0b00#2 rs2.bits rs1.bits rmIgnored rd.bits 0b1001111#7
  | .faddS rd rs1 rs2 => encR 0b0000000#7 rs2.bits rs1.bits rmIgnored rd.bits 0b1010011#7
  | .fsubS rd rs1 rs2 => encR 0b0000100#7 rs2.bits rs1.bits rmIgnored rd.bits 0b1010011#7
  | .fmulS rd rs1 rs2 => encR 0b0001000#7 rs2.bits rs1.bits rmIgnored rd.bits 0b1010011#7
  | .fdivS rd rs1 rs2 => encR 0b0001100#7 rs2.bits rs1.bits rmIgnored rd.bits 0b1010011#7
  | .fsqrtS rd rs1 => encR 0b0101100#7 0b00000#5 rs1.bits rmIgnored rd.bits 0b1010011#7
  | .fsgnjS rd rs1 rs2 => encR 0b0010000#7 rs2.bits rs1.bits 0b000#3 rd.bits 0b1010011#7
  | .fsgnjnS rd rs1 rs2 => encR 0b0010000#7 rs2.bits rs1.bits 0b001#3 rd.bits 0b1010011#7
  | .fsgnjxS rd rs1 rs2 => encR 0b0010000#7 rs2.bits rs1.bits 0b010#3 rd.bits 0b1010011#7
  | .fminS rd rs1 rs2 => encR 0b0010100#7 rs2.bits rs1.bits 0b000#3 rd.bits 0b1010011#7
  | .fmaxS rd rs1 rs2 => encR 0b0010100#7 rs2.bits rs1.bits 0b001#3 rd.bits 0b1010011#7
  | .fcvtWS rd rs1 => encR 0b1100000#7 0b00000#5 rs1.bits rmIgnored rd.bits 0b1010011#7
  | .fcvtWuS rd rs1 => encR 0b1100000#7 0b00001#5 rs1.bits rmIgnored rd.bits 0b1010011#7
  | .fcvtLS rd rs1 => encR 0b1100000#7 0b00010#5 rs1.bits rmIgnored rd.bits 0b1010011#7
  | .fcvtLuS rd rs1 => encR 0b1100000#7 0b00011#5 rs1.bits rmIgnored rd.bits 0b1010011#7
  | .fmvXW rd rs1 => encR 0b1110000#7 0b00000#5 rs1.bits 0b000#3 rd.bits 0b1010011#7
  | .feqS rd rs1 rs2 => encR 0b1010000#7 rs2.bits rs1.bits 0b010#3 rd.bits 0b1010011#7
  | .fltS rd rs1 rs2 => encR 0b1010000#7 rs2.bits rs1.bits 0b001#3 rd.bits 0b1010011#7
  | .fleS rd rs1 rs2 => encR 0b1010000#7 rs2.bits rs1.bits 0b000#3 rd.bits 0b1010011#7
  | .fclassS rd rs1 => encR 0b1110000#7 0b00000#5 rs1.bits 0b001#3 rd.bits 0b1010011#7
  | .fcvtSW rd rs1 rm => encR 0b1101000#7 0b00000#5 rs1.bits rm.bits rd.bits 0b1010011#7
  | .fcvtSWu rd rs1 rm => encR 0b1101000#7 0b00001#5 rs1.bits rm.bits rd.bits 0b1010011#7
  | .fcvtSL rd rs1 rm => encR 0b1101000#7 0b00010#5 rs1.bits rm.bits rd.bits 0b1010011#7
  | .fcvtSLu rd rs1 rm => encR 0b1101000#7 0b00011#5 rs1.bits rm.bits rd.bits 0b1010011#7
  | .fmvWX rd rs1 => encR 0b1111000#7 0b00000#5 rs1.bits 0b000#3 rd.bits 0b1010011#7

/-- The bits of an instruction's word that take any value (R117): aq and rl of the AMO group, every field but
funct3 and the opcode of FENCE and FENCE.I, rm of the arithmetic, fused and float-to-integer forms. -/
def ignoredBits : Instr → Word32
  | .lrW _ _ | .scW _ _ _ | .amoswapW _ _ _ | .amoaddW _ _ _ | .amoxorW _ _ _ | .amoandW _ _ _ | .amoorW _ _ _
  | .amominW _ _ _ | .amomaxW _ _ _ | .amominuW _ _ _ | .amomaxuW _ _ _ | .lrD _ _ | .scD _ _ _
  | .amoswapD _ _ _ | .amoaddD _ _ _ | .amoxorD _ _ _ | .amoandD _ _ _ | .amoorD _ _ _ | .amominD _ _ _
  | .amomaxD _ _ _ | .amominuD _ _ _ | .amomaxuD _ _ _ => 0x06000000#32
  | .fence | .fenceI => 0xFFFF8F80#32
  | .fmaddS _ _ _ _ | .fmsubS _ _ _ _ | .fnmsubS _ _ _ _ | .fnmaddS _ _ _ _ | .faddS _ _ _ | .fsubS _ _ _
  | .fmulS _ _ _ | .fdivS _ _ _ | .fsqrtS _ _ | .fcvtWS _ _ | .fcvtWuS _ _ | .fcvtLS _ _ | .fcvtLuS _ _ => 0x00007000#32
  | .lui _ _ | .auipc _ _ | .jal _ _ | .jalr _ _ _ | .beq _ _ _ | .bne _ _ _ | .blt _ _ _ | .bge _ _ _
  | .bltu _ _ _ | .bgeu _ _ _ | .lb _ _ _ | .lh _ _ _ | .lw _ _ _ | .ld _ _ _ | .lbu _ _ _ | .lhu _ _ _
  | .lwu _ _ _ | .sb _ _ _ | .sh _ _ _ | .sw _ _ _ | .sd _ _ _ | .addi _ _ _ | .slti _ _ _ | .sltiu _ _ _
  | .xori _ _ _ | .ori _ _ _ | .andi _ _ _ | .slli _ _ _ | .srli _ _ _ | .srai _ _ _ | .add _ _ _ | .sub _ _ _
  | .sll _ _ _ | .slt _ _ _ | .sltu _ _ _ | .xor _ _ _ | .srl _ _ _ | .sra _ _ _ | .or _ _ _ | .and _ _ _
  | .addiw _ _ _ | .slliw _ _ _ | .srliw _ _ _ | .sraiw _ _ _ | .addw _ _ _ | .subw _ _ _ | .sllw _ _ _
  | .srlw _ _ _ | .sraw _ _ _ | .csrrw _ _ _ | .csrrs _ _ _ | .csrrc _ _ _ | .csrrwi _ _ _ | .csrrsi _ _ _
  | .csrrci _ _ _ | .mul _ _ _ | .mulh _ _ _ | .mulhsu _ _ _ | .mulhu _ _ _ | .div _ _ _ | .divu _ _ _
  | .rem _ _ _ | .remu _ _ _ | .mulw _ _ _ | .divw _ _ _ | .divuw _ _ _ | .remw _ _ _ | .remuw _ _ _
  | .flw _ _ _ | .fsw _ _ _ | .fsgnjS _ _ _ | .fsgnjnS _ _ _ | .fsgnjxS _ _ _ | .fminS _ _ _ | .fmaxS _ _ _
  | .fmvXW _ _ | .feqS _ _ _ | .fltS _ _ _ | .fleS _ _ _ | .fclassS _ _ | .fcvtSW _ _ _ | .fcvtSWu _ _ _
  | .fcvtSL _ _ _ | .fcvtSLu _ _ _ | .fmvWX _ _ => 0#32

/-- The host's name: what the decoder reads from a table word of `nbits` bits, laid out in memory as the hardware
stores it (little-endian bytes, R53), every bit above `nbits` 0. -/
def decodeTableWord (nbits w : Nat) : Option Instr :=
  let v : Word32 := BitVec.ofNat 32 (w % 2 ^ nbits)
  match decodeBytes [v.extractLsb' 0 8, v.extractLsb' 8 8, v.extractLsb' 16 8, v.extractLsb' 24 8] with
  | .ok (i, _) => some i
  | .error _ => none

end Sys2Proof
end

