-- ==== Sys2Proof/Machine/ResetParams.lean ====
section
/-! DEFINITION. The values the model names for the parameters the spec leaves open at reset (spec/00_scope.md R9).
Each is a DESIGN CHOICE; a claim that should hold for every value is stated over `State.resetWith` or over all states. -/

namespace Sys2Proof.Machine

/-- MEM_SIZE of the reset state (R9, R56: open). DESIGN CHOICE 1 MiB, log 1; unsafe. -/
def resetMemSize : Config.MemSize := 0x100000

/-- SP_DEFAULT, the value of x2 at reset (R9, R41: open). DESIGN CHOICE 0, log 2; unsafe. -/
def resetSpDefault : Word := 0

/-- FREG_RESET(i), the value of every floating-point container at reset (R9, R41: open). DESIGN CHOICE 0, log 3; unsafe. -/
def resetFreg : Word := 0

/-- What a byte of the buffer reads as that nothing has written (R61: "not specified"). DESIGN CHOICE 0, log 4; unsafe. -/
def unlistedByte : Byte := 0

end Sys2Proof.Machine
end

