-- ==== Sys2Proof/Machine/Sparse.lean ====
section
/-! DEFINITION. A finite map from addresses or indices to values, as a list in one canonical form: keys strictly
rising, and no entry equal to the value `d` that an unlisted key reads as. Memory and the CSR bank are held so. -/

namespace Sys2Proof.Machine

/-- What key `a` reads as. -/
def sparseGet {α : Type} (d : α) : List (Nat × α) → Nat → α
  | [], _ => d
  | (k, v) :: l, a => if a = k then v else sparseGet d l a

/-- Insert an entry before the first larger key. -/
def sparseInsert {α : Type} (a : Nat) (v : α) : List (Nat × α) → List (Nat × α)
  | [] => [(a, v)]
  | (k, u) :: l => if a < k then (a, v) :: (k, u) :: l else (k, u) :: sparseInsert a v l

/-- Write `v` at key `a`: writing what an unlisted key reads as removes the entry. -/
def sparsePut {α : Type} [DecidableEq α] (d : α) (a : Nat) (v : α) (l : List (Nat × α)) : List (Nat × α) :=
  let rest := l.filter (fun p => p.1 != a)
  if v = d then rest else sparseInsert a v rest

/-- The canonical form, with every key below `bound`. -/
abbrev sparseWf {α : Type} [DecidableEq α] (d : α) (bound : Nat) (l : List (Nat × α)) : Prop :=
  l.Pairwise (fun p q => p.1 < q.1) ∧ ∀ p ∈ l, p.2 ≠ d ∧ p.1 < bound

end Sys2Proof.Machine
end

