-- ==== Sys2Proof/Machine/State.lean ====
section
/-! DEFINITION. The state of the machine as plain data (spec/10_state.md R20), the reasons a step can stop
(spec/60_exceptions.md R340), and the state after reset (R41). -/

namespace Sys2Proof.Machine

/-- The privilege level (R38): carried, never read and never changed by any instruction (R353). -/
inductive Priv where
  | user
  | supervisor
  | machine
  deriving DecidableEq, Repr

/-- The four legal widths of a memory access (R50). -/
inductive Width where
  | byte
  | half
  | word
  | double
  deriving DecidableEq, Repr

/-- The width in bytes: 1, 2, 4 or 8 (R50). -/
def Width.bytes : Width → Nat
  | .byte => 1
  | .half => 2
  | .word => 4
  | .double => 8

/-- The fatal conditions of R340 with the information each records. All are the spec's own; a step that raises one
has no other effect (R346). -/
inductive Fault where
  /-- MemoryFault(addr, n), R343: raised by the fetch, loads, stores, FLW, FSW, LR, SC and the AMOs when the window
  leaves the buffer. Safe: the spec's own fatal condition. -/
  | memoryFault (addr : Word) (width : Width)
  /-- DecodeError(inst), R341: raised by the decode phase of the step on a word that matches no row. Safe: the spec's
  own fatal condition. -/
  | decodeError (word : Word32)
  /-- UnsupportedRoundingMode(inst), R344: raised by FCVT.S.W, FCVT.S.WU, FCVT.S.L, FCVT.S.LU with rm 101, 110 or 111.
  Safe: the spec's own fatal condition. -/
  | unsupportedRoundingMode (word : Word32)
  /-- UnimplementedMnemonic, R342: raised by nobody; R342 allows "a constructor that no transition produces". Safe. -/
  | unimplementedMnemonic (mnemonic : String)
  deriving DecidableEq, Repr

/-- The reasons the model gives an instruction no meaning. -/
inductive Refusal where
  /-- raised only by a refused arm of `exec`, for an instruction not yet modelled; there is none. Safe. -/
  | notModelled (mnemonic : String)
  deriving DecidableEq, Repr

/-- The backing buffer behind the memory interface (R50): MEM_SIZE and the bytes that differ from `unlistedByte`.
MEM_SIZE is an open parameter, constant during a run (R9); it is held here so that every claim over all states is a
claim over every MEM_SIZE (log 1). `limit` is at most 2^64 - 2048, so that neither an address of the top 2048 (R200) nor a
window that wraps (R56) lies inside (log 15). -/
structure Memory where
  limit : Config.MemSize
  cells : List Host.Cell
  deriving DecidableEq, Repr

/-- MEM_SIZE as a number of bytes. -/
def Memory.size (m : Memory) : Nat := m.limit.val

/-- The architectural state (R20), `halted` (R346) and the memory buffer.
`x` has 32 slots; slot 0 is never read and is kept 0 by the clamp (R21, R22, R27). `csr` lists the entries of the
4096-entry bank that are not 0 (R36, log 11). -/
structure State where
  x      : Vector Word 32
  f      : Vector Word 32
  fcsr   : Word32
  csr    : List (Nat × Word)
  pc     : Word
  priv   : Priv
  halted : Option Fault
  mem    : Memory
  deriving DecidableEq, Repr

/-- The parameters of a reset that the spec leaves open (R9): the buffer before the image is copied (MEM_SIZE and the
unspecified bytes, R61), SP_DEFAULT and FREG_RESET. -/
structure ResetParams where
  mem       : Memory
  spDefault : Word
  fregReset : Vector Word 32
  deriving DecidableEq, Repr

/-- The reset table of R41 for given parameters. -/
def State.resetWith (p : ResetParams) : State where
  x      := (Vector.replicate 32 0#64).set 2 p.spDefault
  f      := p.fregReset
  fcsr   := 0
  csr    := []
  pc     := Config.resetPc
  priv   := .machine
  halted := none
  mem    := p.mem

/-- The parameters the model names (log 1 to 4). -/
def chosenParams : ResetParams where
  mem       := ⟨resetMemSize, []⟩
  spDefault := resetSpDefault
  fregReset := Vector.replicate 32 resetFreg

/-- The machine right after reset (R41, R370, R371), with the open parameters at the values the model names. -/
def State.reset : State := State.resetWith chosenParams

end Sys2Proof.Machine
end

