-- ==== Sys2Proof/Machine/Ops.lean ====
section
/-! DEFINITION. The named operations over registers, the CSR bank and memory (spec/00_scope.md R11, R12), the fatal
condition (spec/60_exceptions.md R346), the parts of the cycle (spec/10_state.md R27) and the loader (R372). -/

namespace Sys2Proof.Machine

/-- What a meaning answers. -/
abbrev Result := Host.Outcome State Fault Refusal

/-! ### Registers (R11, R21, R22, R33, R36) -/

/-- `x[i]`: register 0 "always *observes* as zero" (R21). -/
def State.readX (s : State) (i : Reg) : Word := if i = 0 then 0 else s.x[i.val]

/-- `x[i] <- v`: a write to register 0 is discarded at the point of write (R22). -/
def State.writeX (s : State) (i : Reg) (v : Word) : State :=
  if i = 0 then s else { s with x := s.x.set i.val v }

/-- `box(w) = 0xFFFFFFFF ‖ w` (R33). -/
def box (w : Word32) : Word := 0xFFFFFFFF#32 ++ w

/-- `unbox(c) = c[31:0]`, whatever the upper word holds (R33). -/
def unbox (c : Word) : Word32 := c.extractLsb' 0 32

/-- `f[i]`: the 64-bit container (R11, R31). -/
def State.readF (s : State) (i : Reg) : Word := s.f[i.val]

/-- `f[i] <- v` on the 64-bit container; every instruction writes through `State.writeS`. -/
def State.writeF (s : State) (i : Reg) (v : Word) : State := { s with f := s.f.set i.val v }

/-- The 32-bit pattern of a floating-point source, `unbox(f[i])` (R240). -/
def State.readS (s : State) (i : Reg) : Word32 := unbox (s.readF i)

/-- `f[i] <- box(w)` (R240). -/
def State.writeS (s : State) (i : Reg) (w : Word32) : State := s.writeF i (box w)

/-- `csr[a]`: plain storage, no side effect, no check (R36, R37). -/
def State.readCsr (s : State) (a : CsrIndex) : Word := sparseGet 0 s.csr a.toNat

/-- `csr[a] <- v`: stores all 64 bits unchanged (R37). -/
def State.writeCsr (s : State) (a : CsrIndex) (v : Word) : State := { s with csr := sparsePut 0 a.toNat v s.csr }

/-! ### Memory (R12, R50 to R56) -/

/-- The byte at an address. -/
def Memory.byte (m : Memory) (a : Nat) : Byte := sparseGet unlistedByte m.cells a

/-- Store one byte. -/
def Memory.setByte (m : Memory) (a : Nat) (v : Byte) : Memory :=
  { m with cells := sparsePut unlistedByte a v m.cells }

/-- The canonical form of the buffer, with every listed byte inside it. -/
abbrev Memory.wf (m : Memory) : Prop := sparseWf unlistedByte m.size m.cells

/-- "sum over i from 0 to n-1 of `byte[a+i] * 256^i`" (R52). -/
def Memory.leValue (m : Memory) (a : Nat) : Nat → Nat
  | 0 => 0
  | n + 1 => (m.byte a).toNat + 256 * m.leValue (a + 1) n

/-- "`byte[a+i] <- v[8i+7:8i]` for i from 0 to n-1" (R52). -/
def Memory.setBytes (m : Memory) (a : Nat) : Nat → Word → Memory
  | 0, _ => m
  | n + 1, v => (m.setByte a (v.extractLsb' 0 8)).setBytes (a + 1) n (v >>> 8)

/-- "An access `(addr, n)` is inside the buffer when `unsigned(addr) + n <= MEM_SIZE`", in exact integers (R56). MEM_SIZE
is at most `Config.maxMemSize`, so no window of the top 2048 addresses (R200) and none that would wrap is ever inside. -/
def Memory.inside (m : Memory) (addr : Word) (w : Width) : Bool := addr.toNat + w.bytes ≤ m.size

/-- `MemRead(addr, n)` (R12, R50): the little-endian unsigned value of the window, `none` outside the buffer. -/
def Memory.read (m : Memory) (addr : Word) (w : Width) : Option Word :=
  if m.inside addr w then some (BitVec.ofNat 64 (m.leValue addr.toNat w.bytes)) else none

/-- `MemWrite(addr, n, v)` (R12, R50): the low n bytes of v, `none` outside the buffer. -/
def Memory.write (m : Memory) (addr : Word) (w : Width) (v : Word) : Option Memory :=
  if m.inside addr w then some (m.setBytes addr.toNat w.bytes v) else none

/-! ### The fatal condition (R13, R346) -/

/-- `raise <Condition>(info)` (R13): the instruction ends without any state change and the machine stops. -/
def raise (c : Fault) : Result := .fault c

/-- The state a fatal condition leaves (R346): `halted` holds the condition, everything else keeps the value it had
before the cycle. -/
def halt (c : Fault) (s : State) : State := { s with halted := some c }

/-! ### Parts of the cycle (R27) -/

/-- Step 1: `inst <- MemRead(pc, 4)` (R53, R69). -/
def fetch (s : State) : Except Fault Word32 :=
  match s.mem.read s.pc .word with
  | some v => .ok (v.setWidth 32)
  | none => .error (.memoryFault s.pc .word)

/-- Step 4, the advance phase: `pc <- pc + 4`, modulo 2^64 (R28). -/
def advance (s : State) : State := { s with pc := s.pc + 4 }

/-- Step 5: "re-zero register 0 (defensive clamp)" (R27). -/
def clamp (s : State) : State := { s with x := s.x.set 0 0 }

/-! ### Transfers shared by several instructions -/

/-- Write an integer result (R130, R220). -/
def putX (rd : Reg) (v : Word) (s : State) : Result := .next (s.writeX rd v)

/-- Write a floating-point result (R240). -/
def putS (rd : Reg) (w : Word32) (s : State) : Result := .next (s.writeS rd w)

/-- A load into an integer register (R201, R291): read the window, extend, write rd. -/
def loadX (w : Width) (ext : Word → Word) (rd : Reg) (addr : Word) (s : State) : Result :=
  match s.mem.read addr w with
  | some v => .next (s.writeX rd (ext v))
  | none => raise (.memoryFault addr w)

/-- A load into a floating-point register (R250). -/
def loadS (rd : Reg) (addr : Word) (s : State) : Result :=
  match s.mem.read addr .word with
  | some v => .next (s.writeS rd (v.setWidth 32))
  | none => raise (.memoryFault addr .word)

/-- A store (R209, R251): the low bytes of v; no register is written. -/
def store (w : Width) (addr v : Word) (s : State) : Result :=
  match s.mem.write addr w v with
  | some m => .next { s with mem := m }
  | none => raise (.memoryFault addr w)

/-- A store-conditional (R291): always stores, then writes 0 to rd; on a fault rd is not written. -/
def storeCond (w : Width) (rd : Reg) (addr v : Word) (s : State) : Result :=
  match s.mem.write addr w v with
  | some m => .next (State.writeX { s with mem := m } rd 0)
  | none => raise (.memoryFault addr w)

/-- An atomic memory operation on L-bit values (R290): read, compute, write back, return the original sign-extended.
The write uses the window the read has passed, so it cannot fault. -/
def amo (w : Width) (L : Nat) (op : BitVec L → BitVec L → BitVec L) (rd rs1 rs2 : Reg) (s : State) : Result :=
  let addr := s.readX rs1
  let src := (s.readX rs2).setWidth L
  match s.mem.read addr w with
  | none => raise (.memoryFault addr w)
  | some v =>
    let old := v.setWidth L
    match s.mem.write addr w (zext64 (op old src)) with
    | none => raise (.memoryFault addr w)
    | some m => .next (State.writeX { s with mem := m } rd (sext64 old))

/-- A CSR instruction (R320): all reads precede all writes; the CSR is written only when the write condition holds. -/
def csrAccess (rd : Reg) (a : CsrIndex) (writes : Bool) (new : Word → Word) (s : State) : Result :=
  let old := s.readCsr a
  let s' := if writes then s.writeCsr a (new old) else s
  .next (s'.writeX rd old)

/-- A jump (R180): the execute phase sets `pc <- target - 4`; the advance phase nets it to the target. -/
def State.jumpTo (s : State) (target : Word) : State := { s with pc := target - 4 }

/-- Jump and link (R181, R182): the target was computed from the registers before rd is written. -/
def jumpLink (rd : Reg) (target : Word) (s : State) : Result := .next ((s.writeX rd (s.pc + 4)).jumpTo target)

/-- A conditional branch (R183): taken, `pc <- pc + (k << 1) - 4`; not taken, nothing. -/
def branch (taken : Bool) (k : Word) (s : State) : Result :=
  .next (if taken then s.jumpTo (s.pc + (k <<< 1)) else s)

/-! ### Loading (R61, R372, R377) -/

/-- Copy a byte sequence verbatim to address a and on. -/
def Memory.copyIn (m : Memory) : Nat → List Byte → Memory
  | _, [] => m
  | a, b :: bs => (m.setByte a b).copyIn (a + 1) bs

/-- Start-up (R377, 1 and 2): the buffer with IMAGE at address 0, and the reset state. R377 requires
len(IMAGE) <= MEM_SIZE. -/
def boot (p : ResetParams) (image : List Byte) : State :=
  State.resetWith { p with mem := p.mem.copyIn 0 image }

/-- The buffer with a 32-bit word stored little-endian at an address, enlarged where the window lies outside it: what
`State.withFetchWord` puts under the fetch (log 6). A window beyond `Config.maxMemSize` lies in no buffer (R200, R56), and
the memory is left as it is. -/
def Memory.placeWord (m : Memory) (addr : Word) (w : Word32) : Memory :=
  if h : addr.toNat + 4 ≤ Config.maxMemSize then
    Memory.setBytes
      { m with limit := ⟨max m.size (addr.toNat + 4), Nat.max_lt.2 ⟨m.limit.isLt, Nat.lt_succ_of_le h⟩⟩ }
      addr.toNat 4 (zext64 w)
  else m

end Sys2Proof.Machine
end

