-- ==== Sys2Proof/Machine/Operands.lean ====
section
/-! DEFINITION. The operand forms of the instruction rules: effective addresses (R200), the word halves (R131), shift
amounts (R132), extensions (R201), the upper immediate (R161) and comparison results (R134). -/

namespace Sys2Proof.Machine

/-- `ea = x[rs1] + sext_64(imm)` modulo 2^64 (R200, R57); the decoded immediate is already sign-extended (R91, R92). -/
def effAddr (s : State) (rs1 : Reg) (imm : Word) : Word := s.readX rs1 + imm

/-- `v[31:0]`, the part of an operand a word variant uses (R131). -/
def low32 (v : Word) : Word32 := v.extractLsb' 0 32

/-- `x[rs2][5:0]`, the amount of SLL, SRL, SRA (R132). -/
def regShamt6 (v : Word) : Nat := (v.extractLsb' 0 6).toNat

/-- `x[rs2][4:0]`, the amount of SLLW, SRLW, SRAW (R132; conflict C3, decision D9). -/
def regShamt5 (v : Word) : Nat := (v.extractLsb' 0 5).toNat

/-- `sext_64(v[n-1:0])`, a signed load (R201). -/
def sextFrom (n : Nat) (v : Word) : Word := sext64 (v.setWidth n)

/-- `zext_64(v[n-1:0])`, an unsigned load (R201). -/
def zextFrom (n : Nat) (v : Word) : Word := zext64 (v.setWidth n)

/-- `imm_U << 12` (R93, R161). -/
def upperImm (imm : Word) : Word := imm <<< 12

/-- "write 1 or 0 to the destination" (R134). -/
def boolWord (b : Bool) : Word := if b then 1 else 0

end Sys2Proof.Machine
end

