-- ==== Sys2Proof/Machine/Atomics.lean ====
section
/-! DEFINITION. Atomic memory instructions (spec/45_atomics.md): LR is a load, SC a store that always succeeds (R291),
an AMO reads, computes, writes back and returns the original (R290). The aq and rl bits are ignored (R290 (d)). -/

namespace Sys2Proof.Machine

/-! ### Word forms -/

/-- LR.W: a plain load; no reservation is made (R292) -/
def execLrW (rd rs1 : Reg) (s : State) : Result :=
  loadX .word (sextFrom 32) rd (s.readX rs1) s

/-- SC.W: a plain store, then 0 to rd; always succeeds (R293) -/
def execScW (rd rs1 rs2 : Reg) (s : State) : Result :=
  storeCond .word rd (s.readX rs1) (s.readX rs2) s

/-- AMOSWAP.W: `new <- src` (R294) -/
def execAmoswapW (rd rs1 rs2 : Reg) (s : State) : Result :=
  amo .word 32 (fun _ src => src) rd rs1 rs2 s

/-- AMOADD.W: `new <- old + src` modulo 2^32 (R295) -/
def execAmoaddW (rd rs1 rs2 : Reg) (s : State) : Result :=
  amo .word 32 (fun old src => old + src) rd rs1 rs2 s

/-- AMOXOR.W: `new <- old xor src` (R296) -/
def execAmoxorW (rd rs1 rs2 : Reg) (s : State) : Result :=
  amo .word 32 (fun old src => old ^^^ src) rd rs1 rs2 s

/-- AMOAND.W: `new <- old and src` (R297) -/
def execAmoandW (rd rs1 rs2 : Reg) (s : State) : Result :=
  amo .word 32 (fun old src => old &&& src) rd rs1 rs2 s

/-- AMOOR.W: `new <- old or src` (R298) -/
def execAmoorW (rd rs1 rs2 : Reg) (s : State) : Result :=
  amo .word 32 (fun old src => old ||| src) rd rs1 rs2 s

/-- AMOMIN.W: signed minimum (R299) -/
def execAmominW (rd rs1 rs2 : Reg) (s : State) : Result :=
  amo .word 32 (fun old src => if old.sle src then old else src) rd rs1 rs2 s

/-- AMOMAX.W: signed maximum (R300) -/
def execAmomaxW (rd rs1 rs2 : Reg) (s : State) : Result :=
  amo .word 32 (fun old src => if src.sle old then old else src) rd rs1 rs2 s

/-- AMOMINU.W: unsigned minimum (R301) -/
def execAmominuW (rd rs1 rs2 : Reg) (s : State) : Result :=
  amo .word 32 (fun old src => if old.ule src then old else src) rd rs1 rs2 s

/-- AMOMAXU.W: unsigned maximum (R302) -/
def execAmomaxuW (rd rs1 rs2 : Reg) (s : State) : Result :=
  amo .word 32 (fun old src => if src.ule old then old else src) rd rs1 rs2 s

/-! ### Doubleword forms -/

/-- LR.D: a plain load; no reservation is made (R303) -/
def execLrD (rd rs1 : Reg) (s : State) : Result :=
  loadX .double (sextFrom 64) rd (s.readX rs1) s

/-- SC.D: a plain store, then 0 to rd; always succeeds (R304) -/
def execScD (rd rs1 rs2 : Reg) (s : State) : Result :=
  storeCond .double rd (s.readX rs1) (s.readX rs2) s

/-- AMOSWAP.D: `new <- src` (R305) -/
def execAmoswapD (rd rs1 rs2 : Reg) (s : State) : Result :=
  amo .double 64 (fun _ src => src) rd rs1 rs2 s

/-- AMOADD.D: `new <- old + src` modulo 2^64 (R306) -/
def execAmoaddD (rd rs1 rs2 : Reg) (s : State) : Result :=
  amo .double 64 (fun old src => old + src) rd rs1 rs2 s

/-- AMOXOR.D: `new <- old xor src` (R307) -/
def execAmoxorD (rd rs1 rs2 : Reg) (s : State) : Result :=
  amo .double 64 (fun old src => old ^^^ src) rd rs1 rs2 s

/-- AMOAND.D: `new <- old and src` (R308) -/
def execAmoandD (rd rs1 rs2 : Reg) (s : State) : Result :=
  amo .double 64 (fun old src => old &&& src) rd rs1 rs2 s

/-- AMOOR.D: `new <- old or src` (R309) -/
def execAmoorD (rd rs1 rs2 : Reg) (s : State) : Result :=
  amo .double 64 (fun old src => old ||| src) rd rs1 rs2 s

/-- AMOMIN.D: signed minimum (R310) -/
def execAmominD (rd rs1 rs2 : Reg) (s : State) : Result :=
  amo .double 64 (fun old src => if old.sle src then old else src) rd rs1 rs2 s

/-- AMOMAX.D: signed maximum (R311) -/
def execAmomaxD (rd rs1 rs2 : Reg) (s : State) : Result :=
  amo .double 64 (fun old src => if src.sle old then old else src) rd rs1 rs2 s

/-- AMOMINU.D: unsigned minimum (R312) -/
def execAmominuD (rd rs1 rs2 : Reg) (s : State) : Result :=
  amo .double 64 (fun old src => if old.ule src then old else src) rd rs1 rs2 s

/-- AMOMAXU.D: unsigned maximum (R313) -/
def execAmomaxuD (rd rs1 rs2 : Reg) (s : State) : Result :=
  amo .double 64 (fun old src => if src.ule old then old else src) rd rs1 rs2 s

end Sys2Proof.Machine
end

