-- ==== Sys2Proof/Machine/Control.lean ====
section
/-! DEFINITION. Control transfer (spec/41_control_transfer.md): the execute phase sets `pc <- target - 4`, the advance
phase of the cycle nets it (R180). No transfer checks its target or raises a condition (R190). -/

namespace Sys2Proof.Machine

/-- JAL: target `pc + joff`, link `pc + 4` (R181) -/
def execJal (rd : Reg) (joff : Word) (s : State) : Result :=
  jumpLink rd (s.pc + joff) s

/-- JALR: target `(x[rs1] + sext_64(imm_I))` with bit 0 cleared, from the old x[rs1]; link `pc + 4` (R182) -/
def execJalr (rd rs1 : Reg) (imm : Word) (s : State) : Result :=
  jumpLink rd (effAddr s rs1 imm &&& 0xFFFFFFFFFFFFFFFE#64) s

/-- BEQ: branch if equal (R184) -/
def execBeq (rs1 rs2 : Reg) (k : Word) (s : State) : Result :=
  branch (s.readX rs1 == s.readX rs2) k s

/-- BNE: branch if not equal (R185) -/
def execBne (rs1 rs2 : Reg) (k : Word) (s : State) : Result :=
  branch (s.readX rs1 != s.readX rs2) k s

/-- BLT: branch if less, signed (R186) -/
def execBlt (rs1 rs2 : Reg) (k : Word) (s : State) : Result :=
  branch ((s.readX rs1).slt (s.readX rs2)) k s

/-- BGE: branch if greater or equal, signed (R187) -/
def execBge (rs1 rs2 : Reg) (k : Word) (s : State) : Result :=
  branch ((s.readX rs2).sle (s.readX rs1)) k s

/-- BLTU: branch if less, unsigned (R188) -/
def execBltu (rs1 rs2 : Reg) (k : Word) (s : State) : Result :=
  branch ((s.readX rs1).ult (s.readX rs2)) k s

/-- BGEU: branch if greater or equal, unsigned (R189) -/
def execBgeu (rs1 rs2 : Reg) (k : Word) (s : State) : Result :=
  branch ((s.readX rs2).ule (s.readX rs1)) k s

end Sys2Proof.Machine
end

