-- ==== Sys2Proof/Machine/CsrFence.lean ====
section
/-! DEFINITION. CSR access and fences (spec/46_csr_fence.md). Every index is valid, nothing is checked and nothing is
raised (R320, R37). -/

namespace Sys2Proof.Machine

/-- `old or src` (R322, R325). -/
def setMask (src old : Word) : Word := old ||| src

/-- `old and (not src)` (R323, R326). -/
def clearMask (src old : Word) : Word := old &&& ~~~src

/-- CSRRW: the CSR gets x[rs1], always; rd gets the old value (R321) -/
def execCsrrw (rd rs1 : Reg) (csr : CsrIndex) (s : State) : Result :=
  csrAccess rd csr true (fun _ => s.readX rs1) s

/-- CSRRS: sets the bits of x[rs1], only if the field rs1 is not 0; rd gets the old value (R322) -/
def execCsrrs (rd rs1 : Reg) (csr : CsrIndex) (s : State) : Result :=
  csrAccess rd csr (rs1 != 0) (setMask (s.readX rs1)) s

/-- CSRRC: clears the bits of x[rs1], only if the field rs1 is not 0; rd gets the old value (R323) -/
def execCsrrc (rd rs1 : Reg) (csr : CsrIndex) (s : State) : Result :=
  csrAccess rd csr (rs1 != 0) (clearMask (s.readX rs1)) s

/-- CSRRWI: the CSR gets `zext_64(uimm)`, always; rd gets the old value (R324) -/
def execCsrrwi (rd : Reg) (uimm : BitVec 5) (csr : CsrIndex) (s : State) : Result :=
  csrAccess rd csr true (fun _ => zext64 uimm) s

/-- CSRRSI: sets the bits of uimm, only if uimm is not 0; rd gets the old value (R325) -/
def execCsrrsi (rd : Reg) (uimm : BitVec 5) (csr : CsrIndex) (s : State) : Result :=
  csrAccess rd csr (uimm != 0) (setMask (zext64 uimm)) s

/-- CSRRCI: clears the bits of uimm, only if uimm is not 0; rd gets the old value (R326) -/
def execCsrrci (rd : Reg) (uimm : BitVec 5) (csr : CsrIndex) (s : State) : Result :=
  csrAccess rd csr (uimm != 0) (clearMask (zext64 uimm)) s

/-- FENCE: "no state change"; every earlier access has completed (R63, R64) (R327) -/
def execFence (s : State) : Result :=
  .next s

/-- FENCE.I: "no state change"; the fetch reads the store's own buffer (R66) (R328) -/
def execFenceI (s : State) : Result :=
  .next s

end Sys2Proof.Machine
end

