-- ==== Sys2Proof/Machine/F32.lean ====
section
/-! DEFINITION. IEEE 754 binary32 on 32-bit patterns (spec/00_scope.md R15, spec/44_float.md R240 to R247), computed
exactly on integers. Every finite binary32 number is an integer multiple of 2^-149, the unit of this file, so an exact
sum, product or fused result is an integer over a power of two, an exact quotient a ratio of naturals, and one
function, `f32Round`, does the one rounding (R241). Log 12. -/

namespace Sys2Proof.Machine

/-! ### Fields and classes (R15) -/

/-- sign, bit 31 -/
def f32Sign (a : Word32) : Bool := a.getLsbD 31
/-- biased exponent, bits 30:23 -/
def f32Exp (a : Word32) : Nat := (a.extractLsb' 23 8).toNat
/-- fraction, bits 22:0 -/
def f32Frac (a : Word32) : Nat := (a.extractLsb' 0 23).toNat

/-- Exponent 255 with a non-zero fraction. -/
def f32IsNaN (a : Word32) : Bool := f32Exp a == 255 && f32Frac a != 0
/-- Exponent 255 with fraction 0. -/
def f32IsInf (a : Word32) : Bool := f32Exp a == 255 && f32Frac a == 0
/-- +0 or -0. -/
def f32IsZero (a : Word32) : Bool := f32Exp a == 0 && f32Frac a == 0
/-- A NaN with bit 22 clear. -/
def f32IsSignalling (a : Word32) : Bool := f32IsNaN a && !a.getLsbD 22
/-- Neither infinite nor NaN. -/
def f32IsFinite (a : Word32) : Bool := f32Exp a != 255

/-- `cnan`, the canonical quiet NaN (R15, R242). -/
def cnan : Word32 := 0x7FC00000#32

/-- The pattern with a given sign and bits 30:0. -/
def f32Signed (neg : Bool) (bits : Nat) : Word32 := BitVec.ofNat 32 (if neg then 0x80000000 + bits else bits)

/-- Infinity of a given sign. -/
def f32Inf (neg : Bool) : Word32 := f32Signed neg 0x7F800000

/-- Zero of a given sign. -/
def f32Zero (neg : Bool) : Word32 := f32Signed neg 0

/-- `neg(v) = v xor 0x80000000` (spec/44_float.md section 3). -/
def f32Neg (a : Word32) : Word32 := a ^^^ 0x80000000#32

/-! ### Values -/

/-- The magnitude in units of 2^-149: a subnormal's fraction, or the 24-bit significand shifted by exponent - 1.
An infinity gets 2^277, above every finite magnitude, so that comparisons need no case for it. -/
def f32Mag (a : Word32) : Nat :=
  if f32Exp a = 0 then f32Frac a else (2 ^ 23 + f32Frac a) * 2 ^ (f32Exp a - 1)

/-- The value in units of 2^-149. -/
def f32Val (a : Word32) : Int := if f32Sign a then -(f32Mag a : Int) else f32Mag a

/-! ### Rounding (R15 `round_f32`, R241, R244, R245, R247) -/

/-- Whether the magnitude is rounded up, for a quotient `n` with remainder `r` by the spacing `d`. -/
def f32RoundsUp (rm : RoundMode) (neg : Bool) (n r d : Nat) : Bool :=
  match rm with
  | .rne => d < 2 * r || (2 * r == d && n % 2 == 1)
  | .rtz => false
  | .rdn => neg && r != 0
  | .rup => !neg && r != 0
  | .rmm => d ≤ 2 * r

/-- The result when the rounded magnitude exceeds the largest finite number. -/
def f32Overflow (rm : RoundMode) (neg : Bool) : Word32 :=
  match rm with
  | .rne | .rmm => f32Inf neg
  | .rtz => f32Signed neg 0x7F7FFFFF
  | .rdn => if neg then f32Inf true else f32Signed false 0x7F7FFFFF
  | .rup => if neg then f32Signed true 0x7F7FFFFF else f32Inf false

/-- `num / den` units of 2^-149, with a sign, rounded once to binary32. `k` is the exponent of the spacing in units:
0 for subnormals and the lowest normals, else such that the significand has 24 bits. A significand `n` (rounded up to
at most 2^24) at spacing 2^k has the pattern `k * 2^23 + n`. -/
def f32Round (rm : RoundMode) (neg : Bool) (num den : Nat) : Word32 :=
  let k := Nat.log2 (num / den) - 23
  let d := den * 2 ^ k
  let n := num / d
  let bits := k * 2 ^ 23 + n + (if f32RoundsUp rm neg n (num % d) d then 1 else 0)
  if bits < 0x7F800000 then f32Signed neg bits else f32Overflow rm neg

/-- An integer number of units of 1/den, rounded to nearest even; an exact zero takes the sign given (R241). -/
def f32RoundInt (zeroNeg : Bool) (v : Int) (den : Nat) : Word32 :=
  if v = 0 then f32Zero zeroNeg else f32Round .rne (v < 0) v.natAbs den

/-! ### Arithmetic (R241, R242, R252 to R260) -/

/-- `f32_add` (R256): inf + (-inf) and NaN operands give `cnan`; an exact zero is -0 only for two negative zeros. -/
def f32Add (a b : Word32) : Word32 :=
  if f32IsNaN a || f32IsNaN b then cnan
  else if f32IsInf a then (if f32IsInf b && f32Sign a != f32Sign b then cnan else a)
  else if f32IsInf b then b
  else f32RoundInt (f32Sign a && f32Sign b) (f32Val a + f32Val b) 1

/-- `f32_sub` (R257): `f32_add(a, neg(b))`; a NaN stays a NaN under `neg`. -/
def f32Sub (a b : Word32) : Word32 := f32Add a (f32Neg b)

/-- `f32_mul` (R258): 0 * inf is `cnan`; the sign is the exclusive or. -/
def f32Mul (a b : Word32) : Word32 :=
  let neg := f32Sign a != f32Sign b
  if f32IsNaN a || f32IsNaN b then cnan
  else if f32IsInf a || f32IsInf b then (if f32IsZero a || f32IsZero b then cnan else f32Inf neg)
  else f32Round .rne neg (f32Mag a * f32Mag b) (2 ^ 149)

/-- `f32_div` (R259): 0/0 and inf/inf are `cnan`; finite non-zero / 0 is an infinity; x / inf is a zero. -/
def f32Div (a b : Word32) : Word32 :=
  let neg := f32Sign a != f32Sign b
  if f32IsNaN a || f32IsNaN b then cnan
  else if f32IsInf a then (if f32IsInf b then cnan else f32Inf neg)
  else if f32IsInf b then f32Zero neg
  else if f32IsZero b then (if f32IsZero a then cnan else f32Inf neg)
  else f32Round .rne neg (f32Mag a * 2 ^ 149) (f32Mag b)

/-- The integer square root, one bit of the result at a time from bit `b - 1` down. -/
def isqrtFrom (x : Nat) : Nat → Nat → Nat
  | 0, r => r
  | b + 1, r => isqrtFrom x b (if (r + 2 ^ b) * (r + 2 ^ b) ≤ x then r + 2 ^ b else r)

/-- The greatest r with `r * r <= x`. -/
def isqrt (x : Nat) : Nat := isqrtFrom x (Nat.log2 x / 2 + 1) 0

/-- `f32_sqrt` (R260). The exact root of `m` units is `sqrt(m * 2^149)` units. With `r` the integer part of twice that
root, the root is `r/2`, or lies strictly between `r/2` and `(r+1)/2`, where no rounding boundary lies, so the midpoint
`(2r+1)/4` rounds alike. -/
def f32Sqrt (a : Word32) : Word32 :=
  if f32IsNaN a then cnan
  else if f32IsZero a then a
  else if f32Sign a then cnan
  else if f32IsInf a then a
  else
    let x := 4 * (f32Mag a * 2 ^ 149)
    let r := isqrt x
    f32Round .rne false (2 * r + (if r * r = x then 0 else 1)) 4

/-- `f32_fma(a, b, c)` (R252): the exact `a*b + c` rounded once. 0 * inf and infinities of opposite sign are `cnan`; an
exact zero is -0 only when product and addend are both negative zeros. -/
def f32Fma (a b c : Word32) : Word32 :=
  let pneg := f32Sign a != f32Sign b
  if f32IsNaN a || f32IsNaN b || f32IsNaN c then cnan
  else if f32IsInf a || f32IsInf b then
    (if f32IsZero a || f32IsZero b then cnan
     else if f32IsInf c && f32Sign c != pneg then cnan
     else f32Inf pneg)
  else if f32IsInf c then c
  else f32RoundInt (pneg && f32Sign c) (f32Val a * f32Val b + f32Val c * 2 ^ 149) (2 ^ 149)

/-! ### Comparison and selection (R264, R265, R271 to R274) -/

/-- "neither is NaN and value(a) < value(b)" (R272). -/
def f32Lt (a b : Word32) : Bool := !f32IsNaN a && !f32IsNaN b && decide (f32Val a < f32Val b)
/-- "neither is NaN and value(a) ≤ value(b)" (R273). -/
def f32Le (a b : Word32) : Bool := !f32IsNaN a && !f32IsNaN b && decide (f32Val a ≤ f32Val b)
/-- "neither a nor b is NaN and value(a) = value(b)" (R271). -/
def f32Eq (a b : Word32) : Bool := !f32IsNaN a && !f32IsNaN b && decide (f32Val a = f32Val b)

/-- R264, line by line. -/
def f32Min (a b : Word32) : Word32 :=
  if f32IsNaN a && f32IsNaN b then cnan
  else if f32IsNaN a then b
  else if f32IsNaN b then a
  else if f32Val a < f32Val b then a
  else if f32Val b < f32Val a then b
  else if f32Sign a then a else b

/-- R265: the comparisons reversed; +0 is above -0. -/
def f32Max (a b : Word32) : Word32 :=
  if f32IsNaN a && f32IsNaN b then cnan
  else if f32IsNaN a then b
  else if f32IsNaN b then a
  else if f32Val b < f32Val a then a
  else if f32Val a < f32Val b then b
  else if f32Sign a then b else a

/-- The bit of R274 that is set. -/
def f32ClassBit (a : Word32) : Nat :=
  if f32IsNaN a then (if f32IsSignalling a then 8 else 9)
  else if f32IsInf a then (if f32Sign a then 0 else 7)
  else if f32IsZero a then (if f32Sign a then 3 else 4)
  else if f32Exp a = 0 then (if f32Sign a then 2 else 5)
  else (if f32Sign a then 1 else 6)

/-- `fclass` (R274): exactly one of bits 9:0. -/
def f32Class (a : Word32) : Word := 1#64 <<< f32ClassBit a

/-- Sign and magnitude of R261 to R263: `neg ‖ a[30:0]`. -/
def f32WithSign (neg : Bool) (a : Word32) : Word32 := BitVec.ofBool neg ++ a.extractLsb' 0 31

/-! ### Conversion (R246, R247) -/

/-- The exact integer `trunc(value(a))`, toward zero, of a finite a. -/
def f32Trunc (a : Word32) : Int := if f32Sign a then -((f32Mag a / 2 ^ 149 : Nat) : Int) else (f32Mag a / 2 ^ 149 : Nat)

/-- R246: NaN and +inf give `hi`, -inf gives `lo`, else the truncated value, saturated. -/
def f32ToInt (lo hi : Int) (a : Word32) : Int :=
  if f32IsNaN a then hi
  else if f32IsInf a then (if f32Sign a then lo else hi)
  else if f32Trunc a < lo then lo
  else if hi < f32Trunc a then hi
  else f32Trunc a

/-- R247: `round_f32(n, rm)`; n = 0 gives +0. -/
def f32OfInt (rm : RoundMode) (n : Int) : Word32 := f32Round rm (n < 0) (n.natAbs * 2 ^ 149) 1

end Sys2Proof.Machine
end

