-- ==== Sys2Proof/Machine/Float.lean ====
section
/-! DEFINITION. Single-precision floating-point instructions (spec/44_float.md): sources are unboxed, results boxed
(R240); no flag is read or written (R243). -/

namespace Sys2Proof.Machine

/-! ### Load and store -/

/-- FLW: the 32 bits unchanged, boxed (R250) -/
def execFlw (rd rs1 : Reg) (imm : Word) (s : State) : Result :=
  loadS rd (effAddr s rs1 imm) s

/-- FSW: the low word of f[rs2] to x[rs1] + imm_S (R251) -/
def execFsw (rs1 rs2 : Reg) (imm : Word) (s : State) : Result :=
  store .word (effAddr s rs1 imm) (zext64 (s.readS rs2)) s

/-! ### Fused multiply-add: one rounding of the exact value -/

/-- FMADD.S: a*b + c (R252) -/
def execFmaddS (rd rs1 rs2 rs3 : Reg) (s : State) : Result :=
  putS rd (f32Fma (s.readS rs1) (s.readS rs2) (s.readS rs3)) s

/-- FMSUB.S: a*b - c (R253) -/
def execFmsubS (rd rs1 rs2 rs3 : Reg) (s : State) : Result :=
  putS rd (f32Fma (s.readS rs1) (s.readS rs2) (f32Neg (s.readS rs3))) s

/-- FNMSUB.S: -(a*b) + c, the product negated (R254) -/
def execFnmsubS (rd rs1 rs2 rs3 : Reg) (s : State) : Result :=
  putS rd (f32Fma (f32Neg (s.readS rs1)) (s.readS rs2) (s.readS rs3)) s

/-- FNMADD.S: -(a*b) - c, product and addend each negated (R255) -/
def execFnmaddS (rd rs1 rs2 rs3 : Reg) (s : State) : Result :=
  putS rd (f32Fma (f32Neg (s.readS rs1)) (s.readS rs2) (f32Neg (s.readS rs3))) s

/-! ### Arithmetic: round to nearest even, rm ignored (R241, R244 (a)) -/

/-- FADD.S: `f[rd] <- box(f32_add(a, b))` (R256) -/
def execFaddS (rd rs1 rs2 : Reg) (s : State) : Result :=
  putS rd (f32Add (s.readS rs1) (s.readS rs2)) s

/-- FSUB.S: `f[rd] <- box(f32_sub(a, b))` (R257) -/
def execFsubS (rd rs1 rs2 : Reg) (s : State) : Result :=
  putS rd (f32Sub (s.readS rs1) (s.readS rs2)) s

/-- FMUL.S: `f[rd] <- box(f32_mul(a, b))` (R258) -/
def execFmulS (rd rs1 rs2 : Reg) (s : State) : Result :=
  putS rd (f32Mul (s.readS rs1) (s.readS rs2)) s

/-- FDIV.S: `f[rd] <- box(f32_div(a, b))` (R259) -/
def execFdivS (rd rs1 rs2 : Reg) (s : State) : Result :=
  putS rd (f32Div (s.readS rs1) (s.readS rs2)) s

/-- FSQRT.S: `f[rd] <- box(f32_sqrt(a))` (R260) -/
def execFsqrtS (rd rs1 : Reg) (s : State) : Result :=
  putS rd (f32Sqrt (s.readS rs1)) s

/-! ### Sign injection, minimum, maximum -/

/-- FSGNJ.S: `b[31] ‖ a[30:0]` (R261) -/
def execFsgnjS (rd rs1 rs2 : Reg) (s : State) : Result :=
  putS rd (f32WithSign (f32Sign (s.readS rs2)) (s.readS rs1)) s

/-- FSGNJN.S: `(not b[31]) ‖ a[30:0]` (R262) -/
def execFsgnjnS (rd rs1 rs2 : Reg) (s : State) : Result :=
  putS rd (f32WithSign (!f32Sign (s.readS rs2)) (s.readS rs1)) s

/-- FSGNJX.S: `(a[31] xor b[31]) ‖ a[30:0]` (R263) -/
def execFsgnjxS (rd rs1 rs2 : Reg) (s : State) : Result :=
  putS rd (f32WithSign (f32Sign (s.readS rs1) != f32Sign (s.readS rs2)) (s.readS rs1)) s

/-- FMIN.S (R264) -/
def execFminS (rd rs1 rs2 : Reg) (s : State) : Result :=
  putS rd (f32Min (s.readS rs1) (s.readS rs2)) s

/-- FMAX.S (R265) -/
def execFmaxS (rd rs1 rs2 : Reg) (s : State) : Result :=
  putS rd (f32Max (s.readS rs1) (s.readS rs2)) s

/-! ### Float to integer: truncation, rm ignored (R246, R244 (b)); 32-bit results are sign-extended -/

/-- FCVT.W.S: signed 32-bit (R266) -/
def execFcvtWS (rd rs1 : Reg) (s : State) : Result :=
  putX rd (sext64 (BitVec.ofInt 32 (f32ToInt (-2 ^ 31) (2 ^ 31 - 1) (s.readS rs1)))) s

/-- FCVT.WU.S: unsigned 32-bit (R267) -/
def execFcvtWuS (rd rs1 : Reg) (s : State) : Result :=
  putX rd (sext64 (BitVec.ofInt 32 (f32ToInt 0 (2 ^ 32 - 1) (s.readS rs1)))) s

/-- FCVT.L.S: signed 64-bit (R268) -/
def execFcvtLS (rd rs1 : Reg) (s : State) : Result :=
  putX rd (BitVec.ofInt 64 (f32ToInt (-2 ^ 63) (2 ^ 63 - 1) (s.readS rs1))) s

/-- FCVT.LU.S: unsigned 64-bit (R269) -/
def execFcvtLuS (rd rs1 : Reg) (s : State) : Result :=
  putX rd (BitVec.ofInt 64 (f32ToInt 0 (2 ^ 64 - 1) (s.readS rs1))) s

/-! ### Move, compare, classify -/

/-- FMV.X.W: `x[rd] <- sext_64(unbox(f[rs1]))` (R270) -/
def execFmvXW (rd rs1 : Reg) (s : State) : Result :=
  putX rd (sext64 (s.readS rs1)) s

/-- FEQ.S (R271) -/
def execFeqS (rd rs1 rs2 : Reg) (s : State) : Result :=
  putX rd (boolWord (f32Eq (s.readS rs1) (s.readS rs2))) s

/-- FLT.S (R272) -/
def execFltS (rd rs1 rs2 : Reg) (s : State) : Result :=
  putX rd (boolWord (f32Lt (s.readS rs1) (s.readS rs2))) s

/-- FLE.S (R273) -/
def execFleS (rd rs1 rs2 : Reg) (s : State) : Result :=
  putX rd (boolWord (f32Le (s.readS rs1) (s.readS rs2))) s

/-- FCLASS.S (R274) -/
def execFclassS (rd rs1 : Reg) (s : State) : Result :=
  putX rd (f32Class (s.readS rs1)) s

/-! ### Integer to float: the static rm applied (R247, R244 (c)) -/

/-- Convert under the rm field: 000 to 100 round as named; 101, 110 and 111 raise UnsupportedRoundingMode with the
32-bit word, before f[rd] is written (R244 (c), R344). -/
def cvtOfInt (rm : RmField) (n : Int) (word : Word32) (rd : Reg) (s : State) : Result :=
  match rm with
  | .static m => putS rd (f32OfInt m n) s
  | .reserved5 | .reserved6 | .dyn => raise (.unsupportedRoundingMode word)

/-- FCVT.S.W: from signed x[rs1][31:0] (R275) -/
def execFcvtSW (rd rs1 : Reg) (rm : RmField) (s : State) : Result :=
  cvtOfInt rm (low32 (s.readX rs1)).toInt (encode (.fcvtSW rd rs1 rm)) rd s

/-- FCVT.S.WU: from unsigned x[rs1][31:0] (R276) -/
def execFcvtSWu (rd rs1 : Reg) (rm : RmField) (s : State) : Result :=
  cvtOfInt rm (low32 (s.readX rs1)).toNat (encode (.fcvtSWu rd rs1 rm)) rd s

/-- FCVT.S.L: from signed x[rs1] (R277) -/
def execFcvtSL (rd rs1 : Reg) (rm : RmField) (s : State) : Result :=
  cvtOfInt rm (s.readX rs1).toInt (encode (.fcvtSL rd rs1 rm)) rd s

/-- FCVT.S.LU: from unsigned x[rs1] (R278) -/
def execFcvtSLu (rd rs1 : Reg) (rm : RmField) (s : State) : Result :=
  cvtOfInt rm (s.readX rs1).toNat (encode (.fcvtSLu rd rs1 rm)) rd s

/-- FMV.W.X: `f[rd] <- box(x[rs1][31:0])` (R279) -/
def execFmvWX (rd rs1 : Reg) (s : State) : Result :=
  putS rd (low32 (s.readX rs1)) s

end Sys2Proof.Machine
end

