-- ==== Sys2Proof/Machine/Integer.lean ====
section
/-! DEFINITION. Integer computational instructions (spec/40_integer_computational.md). None writes a flag or pc or
raises a condition; each writes only `x[rd]` (R130). -/

namespace Sys2Proof.Machine

/-! ### Register-immediate (OP-IMM) -/

/-- ADDI: `x[rd] <- x[rs1] + sext_64(imm_I)` (R133) -/
def execAddi (rd rs1 : Reg) (imm : Word) (s : State) : Result :=
  putX rd (s.readX rs1 + imm) s

/-- SLTI: 1 if x[rs1] < imm, signed, else 0 (R134) -/
def execSlti (rd rs1 : Reg) (imm : Word) (s : State) : Result :=
  putX rd (boolWord ((s.readX rs1).slt imm)) s

/-- SLTIU: 1 if x[rs1] < sext_64(imm_I), unsigned, else 0 (R135) -/
def execSltiu (rd rs1 : Reg) (imm : Word) (s : State) : Result :=
  putX rd (boolWord ((s.readX rs1).ult imm)) s

/-- XORI: bitwise exclusive or (R136) -/
def execXori (rd rs1 : Reg) (imm : Word) (s : State) : Result :=
  putX rd (s.readX rs1 ^^^ imm) s

/-- ORI: bitwise or (R137) -/
def execOri (rd rs1 : Reg) (imm : Word) (s : State) : Result :=
  putX rd (s.readX rs1 ||| imm) s

/-- ANDI: bitwise and (R138) -/
def execAndi (rd rs1 : Reg) (imm : Word) (s : State) : Result :=
  putX rd (s.readX rs1 &&& imm) s

/-- SLLI: `x[rd] <- x[rs1] << shamt` (R139) -/
def execSlli (rd rs1 : Reg) (shamt : Word) (s : State) : Result :=
  putX rd (s.readX rs1 <<< shamt.toNat) s

/-- SRLI: `x[rd] <- x[rs1] >>u shamt` (R140) -/
def execSrli (rd rs1 : Reg) (shamt : Word) (s : State) : Result :=
  putX rd (s.readX rs1 >>> shamt.toNat) s

/-- SRAI: `x[rd] <- x[rs1] >>s shamt` (R141) -/
def execSrai (rd rs1 : Reg) (shamt : Word) (s : State) : Result :=
  putX rd ((s.readX rs1).sshiftRight shamt.toNat) s

/-! ### Register-register (OP) -/

/-- ADD: sum modulo 2^64 (R142) -/
def execAdd (rd rs1 rs2 : Reg) (s : State) : Result :=
  putX rd (s.readX rs1 + s.readX rs2) s

/-- SUB: difference modulo 2^64 (R143) -/
def execSub (rd rs1 rs2 : Reg) (s : State) : Result :=
  putX rd (s.readX rs1 - s.readX rs2) s

/-- SLL: `x[rd] <- x[rs1] << x[rs2][5:0]` (R144) -/
def execSll (rd rs1 rs2 : Reg) (s : State) : Result :=
  putX rd (s.readX rs1 <<< regShamt6 (s.readX rs2)) s

/-- SLT: 1 if x[rs1] < x[rs2], signed, else 0 (R145) -/
def execSlt (rd rs1 rs2 : Reg) (s : State) : Result :=
  putX rd (boolWord ((s.readX rs1).slt (s.readX rs2))) s

/-- SLTU: 1 if x[rs1] < x[rs2], unsigned, else 0 (R146) -/
def execSltu (rd rs1 rs2 : Reg) (s : State) : Result :=
  putX rd (boolWord ((s.readX rs1).ult (s.readX rs2))) s

/-- XOR: bitwise exclusive or (R147) -/
def execXor (rd rs1 rs2 : Reg) (s : State) : Result :=
  putX rd (s.readX rs1 ^^^ s.readX rs2) s

/-- SRL: `x[rd] <- x[rs1] >>u x[rs2][5:0]` (R148) -/
def execSrl (rd rs1 rs2 : Reg) (s : State) : Result :=
  putX rd (s.readX rs1 >>> regShamt6 (s.readX rs2)) s

/-- SRA: `x[rd] <- x[rs1] >>s x[rs2][5:0]` (R149) -/
def execSra (rd rs1 rs2 : Reg) (s : State) : Result :=
  putX rd ((s.readX rs1).sshiftRight (regShamt6 (s.readX rs2))) s

/-- OR: bitwise or (R150) -/
def execOr (rd rs1 rs2 : Reg) (s : State) : Result :=
  putX rd (s.readX rs1 ||| s.readX rs2) s

/-- AND: bitwise and (R151) -/
def execAnd (rd rs1 rs2 : Reg) (s : State) : Result :=
  putX rd (s.readX rs1 &&& s.readX rs2) s

/-! ### Word register-immediate (OP-IMM-32): computed on 32 bits, then sign-extended (R131) -/

/-- ADDIW: `sext_64((x[rs1][31:0] + imm_I[31:0])[31:0])` (R152) -/
def execAddiw (rd rs1 : Reg) (imm : Word) (s : State) : Result :=
  putX rd (sext64 (low32 (s.readX rs1) + low32 imm)) s

/-- SLLIW: `sext_64((x[rs1][31:0] << shamt)[31:0])` (R153) -/
def execSlliw (rd rs1 : Reg) (shamt : Word) (s : State) : Result :=
  putX rd (sext64 (low32 (s.readX rs1) <<< shamt.toNat)) s

/-- SRLIW: `sext_64(x[rs1][31:0] >>u shamt)` (R154) -/
def execSrliw (rd rs1 : Reg) (shamt : Word) (s : State) : Result :=
  putX rd (sext64 (low32 (s.readX rs1) >>> shamt.toNat)) s

/-- SRAIW: `sext_64(x[rs1][31:0] >>s shamt)` (R155) -/
def execSraiw (rd rs1 : Reg) (shamt : Word) (s : State) : Result :=
  putX rd (sext64 ((low32 (s.readX rs1)).sshiftRight shamt.toNat)) s

/-! ### Word register-register (OP-32) -/

/-- ADDW: 32-bit sum, sign-extended (R156) -/
def execAddw (rd rs1 rs2 : Reg) (s : State) : Result :=
  putX rd (sext64 (low32 (s.readX rs1) + low32 (s.readX rs2))) s

/-- SUBW: 32-bit difference, sign-extended (R157) -/
def execSubw (rd rs1 rs2 : Reg) (s : State) : Result :=
  putX rd (sext64 (low32 (s.readX rs1) - low32 (s.readX rs2))) s

/-- SLLW: `sext_64((x[rs1][31:0] << x[rs2][4:0])[31:0])` (R158) -/
def execSllw (rd rs1 rs2 : Reg) (s : State) : Result :=
  putX rd (sext64 (low32 (s.readX rs1) <<< regShamt5 (s.readX rs2))) s

/-- SRLW: `sext_64(x[rs1][31:0] >>u x[rs2][4:0])` (R159) -/
def execSrlw (rd rs1 rs2 : Reg) (s : State) : Result :=
  putX rd (sext64 (low32 (s.readX rs1) >>> regShamt5 (s.readX rs2))) s

/-- SRAW: `sext_64(x[rs1][31:0] >>s x[rs2][4:0])` (R160) -/
def execSraw (rd rs1 rs2 : Reg) (s : State) : Result :=
  putX rd (sext64 ((low32 (s.readX rs1)).sshiftRight (regShamt5 (s.readX rs2)))) s

/-! ### Upper immediate -/

/-- LUI: `x[rd] <- imm_U << 12` (R161) -/
def execLui (rd : Reg) (imm : Word) (s : State) : Result :=
  putX rd (upperImm imm) s

/-- AUIPC: `x[rd] <- pc + (imm_U << 12)`, pc the address of the AUIPC itself (R162) -/
def execAuipc (rd : Reg) (imm : Word) (s : State) : Result :=
  putX rd (s.pc + upperImm imm) s

end Sys2Proof.Machine
end

