-- ==== Sys2Proof/Machine/LoadStore.lean ====
section
/-! DEFINITION. Integer loads and stores (spec/42_load_store.md). The only condition is MemoryFault, raised before any
effect (R201, R209). -/

namespace Sys2Proof.Machine

/-- LB: 1 byte, sign-extended from bit 7 (R202) -/
def execLb (rd rs1 : Reg) (imm : Word) (s : State) : Result :=
  loadX .byte (sextFrom 8) rd (effAddr s rs1 imm) s

/-- LH: 2 bytes, sign-extended from bit 15 (R203) -/
def execLh (rd rs1 : Reg) (imm : Word) (s : State) : Result :=
  loadX .half (sextFrom 16) rd (effAddr s rs1 imm) s

/-- LW: 4 bytes, sign-extended from bit 31 (R204) -/
def execLw (rd rs1 : Reg) (imm : Word) (s : State) : Result :=
  loadX .word (sextFrom 32) rd (effAddr s rs1 imm) s

/-- LD: 8 bytes; the extension changes nothing (R205) -/
def execLd (rd rs1 : Reg) (imm : Word) (s : State) : Result :=
  loadX .double (sextFrom 64) rd (effAddr s rs1 imm) s

/-- LBU: 1 byte, zero-extended from bit 7 (R206) -/
def execLbu (rd rs1 : Reg) (imm : Word) (s : State) : Result :=
  loadX .byte (zextFrom 8) rd (effAddr s rs1 imm) s

/-- LHU: 2 bytes, zero-extended from bit 15 (R207) -/
def execLhu (rd rs1 : Reg) (imm : Word) (s : State) : Result :=
  loadX .half (zextFrom 16) rd (effAddr s rs1 imm) s

/-- LWU: 4 bytes, zero-extended from bit 31 (R208) -/
def execLwu (rd rs1 : Reg) (imm : Word) (s : State) : Result :=
  loadX .word (zextFrom 32) rd (effAddr s rs1 imm) s

/-- SB: the low 1 byte of x[rs2] to x[rs1] + imm_S (R210) -/
def execSb (rs1 rs2 : Reg) (imm : Word) (s : State) : Result :=
  store .byte (effAddr s rs1 imm) (s.readX rs2) s

/-- SH: the low 2 bytes of x[rs2] to x[rs1] + imm_S (R211) -/
def execSh (rs1 rs2 : Reg) (imm : Word) (s : State) : Result :=
  store .half (effAddr s rs1 imm) (s.readX rs2) s

/-- SW: the low 4 bytes of x[rs2] to x[rs1] + imm_S (R212) -/
def execSw (rs1 rs2 : Reg) (imm : Word) (s : State) : Result :=
  store .word (effAddr s rs1 imm) (s.readX rs2) s

/-- SD: the low 8 bytes of x[rs2] to x[rs1] + imm_S (R213) -/
def execSd (rs1 rs2 : Reg) (imm : Word) (s : State) : Result :=
  store .double (effAddr s rs1 imm) (s.readX rs2) s

end Sys2Proof.Machine
end

