-- ==== Sys2Proof/Machine/MulDiv.lean ====
section
/-! DEFINITION. Integer multiply and divide (spec/43_muldiv.md). No flag, no exception; division by zero and signed
overflow return the values of R221. -/

namespace Sys2Proof.Machine

/-- Bits 127:64 of an exact product, taken as a 128-bit two's-complement number (R223 to R225). -/
def mulHigh (a b : Int) : Word := (BitVec.ofInt 128 (a * b)).extractLsb' 64 64

/-- Signed division (R226, R231): by zero all ones; the most negative value by -1 is itself; else toward zero. -/
def divS {L : Nat} (x y : BitVec L) : BitVec L :=
  if y = 0 then BitVec.allOnes L
  else if x = BitVec.intMin L ∧ y = BitVec.allOnes L then x
  else BitVec.ofInt L (x.toInt.tdiv y.toInt)

/-- Unsigned division (R227, R232): by zero all ones; else the floor of the quotient. -/
def divU {L : Nat} (x y : BitVec L) : BitVec L :=
  if y = 0 then BitVec.allOnes L else BitVec.ofNat L (x.toNat / y.toNat)

/-- Signed remainder (R228, R233): by zero the dividend; overflow 0; else `a - b * trunc(a / b)`. -/
def remS {L : Nat} (x y : BitVec L) : BitVec L :=
  if y = 0 then x
  else if x = BitVec.intMin L ∧ y = BitVec.allOnes L then 0
  else BitVec.ofInt L (x.toInt - y.toInt * x.toInt.tdiv y.toInt)

/-- Unsigned remainder (R229, R234): by zero the dividend; else `a mod b`. -/
def remU {L : Nat} (x y : BitVec L) : BitVec L :=
  if y = 0 then x else BitVec.ofNat L (x.toNat % y.toNat)

/-- MUL: `(x[rs1] * x[rs2])[63:0]` (R222) -/
def execMul (rd rs1 rs2 : Reg) (s : State) : Result :=
  putX rd (s.readX rs1 * s.readX rs2) s

/-- MULH: bits 127:64 of the signed by signed product (R223) -/
def execMulh (rd rs1 rs2 : Reg) (s : State) : Result :=
  putX rd (mulHigh (s.readX rs1).toInt (s.readX rs2).toInt) s

/-- MULHSU: bits 127:64 of the signed x[rs1] by unsigned x[rs2] product (R224) -/
def execMulhsu (rd rs1 rs2 : Reg) (s : State) : Result :=
  putX rd (mulHigh (s.readX rs1).toInt (s.readX rs2).toNat) s

/-- MULHU: bits 127:64 of the unsigned by unsigned product (R225) -/
def execMulhu (rd rs1 rs2 : Reg) (s : State) : Result :=
  putX rd (mulHigh (s.readX rs1).toNat (s.readX rs2).toNat) s

/-- DIV: signed, toward zero (R226) -/
def execDiv (rd rs1 rs2 : Reg) (s : State) : Result :=
  putX rd (divS (s.readX rs1) (s.readX rs2)) s

/-- DIVU: unsigned (R227) -/
def execDivu (rd rs1 rs2 : Reg) (s : State) : Result :=
  putX rd (divU (s.readX rs1) (s.readX rs2)) s

/-- REM: signed, the sign of the dividend (R228) -/
def execRem (rd rs1 rs2 : Reg) (s : State) : Result :=
  putX rd (remS (s.readX rs1) (s.readX rs2)) s

/-- REMU: unsigned (R229) -/
def execRemu (rd rs1 rs2 : Reg) (s : State) : Result :=
  putX rd (remU (s.readX rs1) (s.readX rs2)) s

/-- MULW: `sext_64((x[rs1][31:0] * x[rs2][31:0])[31:0])` (R230) -/
def execMulw (rd rs1 rs2 : Reg) (s : State) : Result :=
  putX rd (sext64 (low32 (s.readX rs1) * low32 (s.readX rs2))) s

/-- DIVW: signed on the low words, sign-extended (R231) -/
def execDivw (rd rs1 rs2 : Reg) (s : State) : Result :=
  putX rd (sext64 (divS (low32 (s.readX rs1)) (low32 (s.readX rs2)))) s

/-- DIVUW: unsigned on the low words, sign-extended (R232) -/
def execDivuw (rd rs1 rs2 : Reg) (s : State) : Result :=
  putX rd (sext64 (divU (low32 (s.readX rs1)) (low32 (s.readX rs2)))) s

/-- REMW: signed on the low words, sign-extended (R233) -/
def execRemw (rd rs1 rs2 : Reg) (s : State) : Result :=
  putX rd (sext64 (remS (low32 (s.readX rs1)) (low32 (s.readX rs2)))) s

/-- REMUW: unsigned on the low words, sign-extended (R234) -/
def execRemuw (rd rs1 rs2 : Reg) (s : State) : Result :=
  putX rd (sext64 (remU (low32 (s.readX rs1)) (low32 (s.readX rs2)))) s

end Sys2Proof.Machine
end

