-- ==== Sys2Proof/Machine/Flags.lean ====
section
/-! DEFINITION. Flags. The integer unit has none (R39) and no floating-point instruction sets, clears or reads one
(R243): the only flag storage is `fcsr`, which no instruction reads or writes (R35; decision D20). This file gives the
fields of `fcsr` their names; no meaning uses them. -/

namespace Sys2Proof.Machine

/-- The accrued exception flags, `fcsr[4:0]` (R35). -/
def State.fflags (s : State) : BitVec 5 := s.fcsr.extractLsb' 0 5
/-- NX, inexact: bit 0 (R35). -/
def State.flagNX (s : State) : Bool := s.fcsr.getLsbD 0
/-- UF, underflow: bit 1 (R35). -/
def State.flagUF (s : State) : Bool := s.fcsr.getLsbD 1
/-- OF, overflow: bit 2 (R35). -/
def State.flagOF (s : State) : Bool := s.fcsr.getLsbD 2
/-- DZ, divide by zero: bit 3 (R35). -/
def State.flagDZ (s : State) : Bool := s.fcsr.getLsbD 3
/-- NV, invalid: bit 4 (R35). -/
def State.flagNV (s : State) : Bool := s.fcsr.getLsbD 4
/-- The dynamic rounding mode frm, `fcsr[7:5]` (R35). -/
def State.frm (s : State) : BitVec 3 := s.fcsr.extractLsb' 5 3
/-- "bits 31:8 zero" (R35). -/
def State.fcsrUpperZero (s : State) : Bool := s.fcsr.extractLsb' 8 24 == 0

end Sys2Proof.Machine
end

