-- ==== Sys2Proof/Machine/Step.lean ====
section
/-! DEFINITION. The cycle, "the only step the machine has" (spec/10_state.md R27), the state a cycle leaves when a
fatal condition stops it (spec/60_exceptions.md R346), and where the host places an instruction word. -/

namespace Sys2Proof.Machine

/-- One cycle (R27): fetch, decode, execute, advance, clamp. A fatal condition of the first three ends it with no state
change (R346); the conditions come in the order of R349. A halted machine performs no cycle: it stays stopped with the
condition it holds (R346: "a model chooses"; log 5). -/
def step (s : State) : Host.Outcome State Fault Refusal :=
  match s.halted with
  | some c => .fault c
  | none =>
    match fetch s with
    | .error c => .fault c
    | .ok w =>
      match decode w with
      | .error _ => .fault (.decodeError w)
      | .ok i =>
        match exec i s with
        | .next t => .next (clamp (advance t))
        | .fault c => .fault c
        | .refused r => .refused r

/-- The state after a cycle as the driver finds it: the next state, or the state halted with the condition raised, all
else as before the cycle; a halted machine is left as it is, "the identity on a halted machine" (R346). -/
def cycle (s : State) : State :=
  match step s with
  | .next t => t
  | .fault c => if s.halted.isSome then s else halt c s
  | .refused _ => s

/-- The host's name: s with the instruction of `nbits` bits `w` (bits above `nbits` 0) where the next step fetches, at
pc, little-endian (R53). A halted machine is made to run and a buffer that ends before pc + 4 is enlarged, since the
fetch needs both; nothing else changes (log 6). -/
def State.withFetchWord (s : State) (nbits w : Nat) : State :=
  { s with halted := none, mem := s.mem.placeWord s.pc (BitVec.ofNat 32 (w % 2 ^ nbits)) }

end Sys2Proof.Machine
end

