-- ==== Sys2Proof/Safety.lean ====
section
/-! DEFINITION. The terms claims use: the invariant of the machine, the runs the driver makes, and what a safe run is. -/

namespace Sys2Proof

open Machine

/-- What holds of every state of a run from a canonical start: the buffer and the CSR bank are in canonical form with
every listed key inside (R56, R36), slot 0 of the integer file is 0 (R21, R27), pc is even (R30: "starting from an even
pc every pc is even"), bits 31:8 of fcsr are zero (R35), and the privilege level is Machine (R38, R353). -/
structure Machine.State.Inv (s : State) : Prop where
  mem   : s.mem.wf
  csr   : sparseWf 0 Config.csrEntries s.csr
  x0    : s.x[0] = 0
  pc    : s.pc.getLsbD 0 = false
  fcsr  : s.fcsrUpperZero = true
  priv  : s.priv = .machine

/-- `n` cycles from `s` (R27), a halted machine staying as it is. -/
def cycles : Nat → State → State
  | 0, s => s
  | n + 1, s => cycles n (cycle s)

/-- The driver's run (R377, R379): repeat the cycle until STOP holds or the machine halts, at most `n` times. STOP is an
open parameter (R9), tested "between cycles"; the spec leaves open whether it is also tested before the first cycle.
DESIGN CHOICE, log 17: it is, so a STOP that holds of the start state runs no cycle. The other reading
is `driverRun stop n (cycle s)`. -/
def driverRun (stop : State → Bool) : Nat → State → State
  | 0, s => s
  | n + 1, s => if stop s || s.halted.isSome then s else driverRun stop n (cycle s)

/-- `t` is reached from `s` by completed cycles. -/
inductive Reaches : State → State → Prop where
  | refl (s : State) : Reaches s s
  | step {s t u : State} : Reaches s t → Machine.step t = .next u → Reaches s u

/-- A run is safe when no state it reaches stops. -/
def Safe (s : State) : Prop := ∀ t, Reaches s t → ∃ u, Machine.step t = .next u

end Sys2Proof
end

