-- ==== Sys2Proof/Certificates/Slice0/Obligations.lean ====
section
/-! DEFINITION. The statements for the provers, and before them the terms they are written in: the bits of an instruction
word, the frames, the values of binary32 patterns and the rounding of R241 and R247. The terms are written from the
spec, apart from the model: integers and rationals where the model computes on bits. Opcode, funct3, funct7 and the
sub-field numbers are the rules' own, which the spec marks as general knowledge, not in its source (log 9). -/

namespace Sys2Proof.Claims

open Machine

/-! ### Words and their fields (R82) -/

/-- `inst[pos+n-1:pos]`. -/
def bits (w : Word32) (pos n : Nat) : BitVec n := w.extractLsb' pos n

/-- The register number in the five bits from `pos`: rd 7, rs1 15, rs2 20, rs3 27. -/
def reg (w : Word32) (pos : Nat) : Reg := (w.extractLsb' pos 5).toFin

/-- R format (R83): every word with this opcode, funct3 and funct7 is this instruction. -/
def RForm (op : BitVec 7) (f3 : BitVec 3) (f7 : BitVec 7) (mk : Reg → Reg → Reg → Instr) : Prop :=
  ∀ w : Word32, bits w 0 7 = op → bits w 12 3 = f3 → bits w 25 7 = f7 →
    decode w = .ok (mk (reg w 7) (reg w 15) (reg w 20))

/-- I format (R85), the immediate `sext_64(inst[31:20])` (R91). -/
def IForm (op : BitVec 7) (f3 : BitVec 3) (mk : Reg → Reg → Word → Instr) : Prop :=
  ∀ w : Word32, bits w 0 7 = op → bits w 12 3 = f3 →
    decode w = .ok (mk (reg w 7) (reg w 15) (sext64 (bits w 20 12)))

/-- A shift by a 6-bit immediate: inst[31:26] discriminates, the amount is `zext_64(inst[25:20])` (R95). -/
def Shift6Form (op : BitVec 7) (f3 : BitVec 3) (top : BitVec 6) (mk : Reg → Reg → Word → Instr) : Prop :=
  ∀ w : Word32, bits w 0 7 = op → bits w 12 3 = f3 → bits w 26 6 = top →
    decode w = .ok (mk (reg w 7) (reg w 15) (zext64 (bits w 20 6)))

/-- A shift by a 5-bit immediate: inst[31:25] discriminates, the amount is `zext_64(inst[24:20])` (R95). -/
def Shift5Form (op : BitVec 7) (f3 : BitVec 3) (f7 : BitVec 7) (mk : Reg → Reg → Word → Instr) : Prop :=
  ∀ w : Word32, bits w 0 7 = op → bits w 12 3 = f3 → bits w 25 7 = f7 →
    decode w = .ok (mk (reg w 7) (reg w 15) (zext64 (bits w 20 5)))

/-- S format (R86), the immediate `sext_64(inst[31:25] ‖ inst[11:7])` (R92). -/
def SForm (op : BitVec 7) (f3 : BitVec 3) (mk : Reg → Reg → Word → Instr) : Prop :=
  ∀ w : Word32, bits w 0 7 = op → bits w 12 3 = f3 →
    decode w = .ok (mk (reg w 15) (reg w 20) (sext64 (bits w 25 7 ++ bits w 7 5)))

/-- B format (R87), the immediate `k = sext_64(inst[31] ‖ inst[7] ‖ inst[30:25] ‖ inst[11:8])` (R90). -/
def BForm (op : BitVec 7) (f3 : BitVec 3) (mk : Reg → Reg → Word → Instr) : Prop :=
  ∀ w : Word32, bits w 0 7 = op → bits w 12 3 = f3 →
    decode w = .ok (mk (reg w 15) (reg w 20) (sext64 (bits w 31 1 ++ bits w 7 1 ++ bits w 25 6 ++ bits w 8 4)))

/-- U format (R88), the immediate `sext_64(inst[31:12])` (R93). -/
def UForm (op : BitVec 7) (mk : Reg → Word → Instr) : Prop :=
  ∀ w : Word32, bits w 0 7 = op → decode w = .ok (mk (reg w 7) (sext64 (bits w 12 20)))

/-- J format (R89), the offset `sext_64(inst[31] ‖ inst[19:12] ‖ inst[20] ‖ inst[30:21] ‖ 0)` (R94). -/
def JForm (op : BitVec 7) (mk : Reg → Word → Instr) : Prop :=
  ∀ w : Word32, bits w 0 7 = op →
    decode w = .ok (mk (reg w 7) (sext64 (bits w 31 1 ++ bits w 12 8 ++ bits w 20 1 ++ bits w 21 10 ++ 0#1)))

/-- AMO rows (R83, R110): funct5 and funct3 select, aq and rl take any value. -/
def AmoForm (f3 : BitVec 3) (f5 : BitVec 5) (mk : Reg → Reg → Reg → Instr) : Prop :=
  ∀ w : Word32, bits w 0 7 = 0b0101111#7 → bits w 12 3 = f3 → bits w 27 5 = f5 →
    decode w = .ok (mk (reg w 7) (reg w 15) (reg w 20))

/-- LR rows (R292, R303): as AMO rows, with the rs2 field 00000. -/
def LrForm (f3 : BitVec 3) (mk : Reg → Reg → Instr) : Prop :=
  ∀ w : Word32, bits w 0 7 = 0b0101111#7 → bits w 12 3 = f3 → bits w 27 5 = 0b00010#5 → bits w 20 5 = 0b00000#5 →
    decode w = .ok (mk (reg w 7) (reg w 15))

/-- CSR rows with a register source (R96, R321 to R323). -/
def CsrForm (f3 : BitVec 3) (mk : Reg → Reg → CsrIndex → Instr) : Prop :=
  ∀ w : Word32, bits w 0 7 = 0b1110011#7 → bits w 12 3 = f3 →
    decode w = .ok (mk (reg w 7) (reg w 15) (bits w 20 12))

/-- CSR rows with a 5-bit literal (R96, R324 to R326). -/
def CsrImmForm (f3 : BitVec 3) (mk : Reg → BitVec 5 → CsrIndex → Instr) : Prop :=
  ∀ w : Word32, bits w 0 7 = 0b1110011#7 → bits w 12 3 = f3 →
    decode w = .ok (mk (reg w 7) (bits w 15 5) (bits w 20 12))

/-- OP-FP rows that ignore rm (R113). -/
def FpForm (f7 : BitVec 7) (mk : Reg → Reg → Reg → Instr) : Prop :=
  ∀ w : Word32, bits w 0 7 = 0b1010011#7 → bits w 25 7 = f7 → decode w = .ok (mk (reg w 7) (reg w 15) (reg w 20))

/-- OP-FP rows that ignore rm and fix the rs2 field (R113). -/
def FpSubForm (f7 : BitVec 7) (sub : BitVec 5) (mk : Reg → Reg → Instr) : Prop :=
  ∀ w : Word32, bits w 0 7 = 0b1010011#7 → bits w 25 7 = f7 → bits w 20 5 = sub →
    decode w = .ok (mk (reg w 7) (reg w 15))

/-- OP-FP rows that fix funct3 and the rs2 field (R113). -/
def FpSub3Form (f7 : BitVec 7) (sub : BitVec 5) (f3 : BitVec 3) (mk : Reg → Reg → Instr) : Prop :=
  ∀ w : Word32, bits w 0 7 = 0b1010011#7 → bits w 25 7 = f7 → bits w 20 5 = sub → bits w 12 3 = f3 →
    decode w = .ok (mk (reg w 7) (reg w 15))

/-- The integer-to-float rows carry rm (R81, R113): funct7 1101000, the rs2 field selects. -/
def FpRmForm (sub : BitVec 5) (mk : Reg → Reg → RmField → Instr) : Prop :=
  ∀ w : Word32, bits w 0 7 = 0b1010011#7 → bits w 25 7 = 0b1101000#7 → bits w 20 5 = sub →
    decode w = .ok (mk (reg w 7) (reg w 15) (RmField.ofBits (bits w 12 3)))

/-- R4 format (R84), funct2 00, rm ignored (R112). -/
def FusedForm (op : BitVec 7) (mk : Reg → Reg → Reg → Reg → Instr) : Prop :=
  ∀ w : Word32, bits w 0 7 = op → bits w 25 2 = 0b00#2 →
    decode w = .ok (mk (reg w 7) (reg w 15) (reg w 20) (reg w 27))

/-- The word is a DecodeError. -/
def Undefined (w : Word32) : Prop := ∃ e, decode w = .error e

/-- The word stands in a filled cell of the tables R97 to R113, one line for each group: every other primary opcode
(R97), word with bits 1:0 not 11 (R118), and cell of a listed group is a DecodeError. -/
def defined (w : Word32) : Bool :=
  let f3 := bits w 12 3
  let f7 := bits w 25 7
  let sub := bits w 20 5
  match bits w 0 7 with
  | 0x37#7 | 0x17#7 | 0x6F#7 => true -- LUI, AUIPC (R104), JAL (R107)
  | 0x67#7 => f3 == 0b000#3 -- JALR (R106)
  | 0x63#7 => f3 != 0b010#3 && f3 != 0b011#3 -- BRANCH (R105)
  | 0x03#7 => f3 != 0b111#3 -- LOAD (R98)
  | 0x23#7 => bits w 14 1 == 0#1 -- STORE (R101)
  | 0x07#7 | 0x27#7 => f3 == 0b010#3 -- LOAD-FP, STORE-FP (R111)
  | 0x13#7 => -- OP-IMM (R99), the shifts by inst[31:26]
    if f3 = 0b001#3 then bits w 26 6 == 0b000000#6
    else if f3 = 0b101#3 then bits w 26 6 == 0b000000#6 || bits w 26 6 == 0b010000#6
    else true
  | 0x1B#7 => -- OP-IMM-32 (R100), the shifts by inst[31:25]
    if f3 = 0b000#3 then true
    else if f3 = 0b001#3 then f7 == 0b0000000#7
    else if f3 = 0b101#3 then f7 == 0b0000000#7 || f7 == 0b0100000#7
    else false
  | 0x33#7 => -- OP (R102)
    f7 == 0b0000000#7 || f7 == 0b0000001#7 || (f7 == 0b0100000#7 && (f3 == 0b000#3 || f3 == 0b101#3))
  | 0x3B#7 => -- OP-32 (R103)
    (f7 == 0b0000000#7 && (f3 == 0b000#3 || f3 == 0b001#3 || f3 == 0b101#3)) ||
    (f7 == 0b0100000#7 && (f3 == 0b000#3 || f3 == 0b101#3)) ||
    (f7 == 0b0000001#7 && (f3 == 0b000#3 || f3 == 0b100#3 || f3 == 0b101#3 || f3 == 0b110#3 || f3 == 0b111#3))
  | 0x0F#7 => f3 == 0b000#3 || f3 == 0b001#3 -- MISC-MEM (R108)
  | 0x73#7 => f3 != 0b000#3 && f3 != 0b100#3 -- SYSTEM (R109)
  | 0x2F#7 => -- AMO (R110), the width by funct3, the operation by inst[31:27]; LR with the rs2 field 00000
    (f3 == 0b010#3 || f3 == 0b011#3) && ((bits w 27 5 == 0b00010#5 && sub == 0b00000#5) ||
      [0b00011#5, 0b00001#5, 0b00000#5, 0b00100#5, 0b01100#5, 0b01000#5, 0b10000#5, 0b10100#5, 0b11000#5,
        0b11100#5].contains (bits w 27 5))
  | 0x43#7 | 0x47#7 | 0x4B#7 | 0x4F#7 => bits w 25 2 == 0b00#2 -- the fused groups (R112)
  | 0x53#7 => -- OP-FP (R113)
    match f7 with
    | 0b0000000#7 | 0b0000100#7 | 0b0001000#7 | 0b0001100#7 => true
    | 0b0101100#7 => sub == 0b00000#5
    | 0b0010000#7 | 0b1010000#7 => f3 == 0b000#3 || f3 == 0b001#3 || f3 == 0b010#3
    | 0b0010100#7 => f3 == 0b000#3 || f3 == 0b001#3
    | 0b1100000#7 | 0b1101000#7 => sub == 0b00000#5 || sub == 0b00001#5 || sub == 0b00010#5 || sub == 0b00011#5
    | 0b1110000#7 => sub == 0b00000#5 && (f3 == 0b000#3 || f3 == 0b001#3)
    | 0b1111000#7 => sub == 0b00000#5 && f3 == 0b000#3
    | _ => false
  | _ => false

/-! ### Frames -/

/-- Every integer register as before. -/
def SameX (s t : State) : Prop := ∀ r, t.readX r = s.readX r

/-- Every floating-point container as before. -/
def SameF (s t : State) : Prop := ∀ r, t.readF r = s.readF r

/-- fcsr, every CSR, the privilege level and `halted` as before. -/
def SameSystem (s t : State) : Prop :=
  t.fcsr = s.fcsr ∧ (∀ a, t.readCsr a = s.readCsr a) ∧ t.priv = s.priv ∧ t.halted = s.halted

/-- Every byte of memory, and MEM_SIZE, as before. -/
def SameMem (s t : State) : Prop := t.mem.size = s.mem.size ∧ ∀ a, t.mem.byte a = s.mem.byte a

/-- `x[rd] <- v`: nothing when rd = 0 (R22), and every other register as before. -/
def WroteX (rd : Reg) (v : Word) (s t : State) : Prop :=
  ∀ r, t.readX r = if r = rd ∧ rd ≠ 0 then v else s.readX r

/-- `f[rd] <- box(w) = 0xFFFFFFFF ‖ w`, every other container as before. -/
def WroteF (rd : Reg) (w : Word32) (s t : State) : Prop :=
  ∀ r, t.readF r = if r = rd then 0xFFFFFFFF#32 ++ w else s.readF r

/-- Byte i of the n bytes at `a` holds bits 8i+7:8i of v, every other byte as before (R52). -/
def WroteMem (a n : Nat) (v : Nat) (s t : State) : Prop :=
  t.mem.size = s.mem.size ∧
    ∀ b, t.mem.byte b = if a ≤ b ∧ b < a + n then BitVec.ofNat 8 (v / 256 ^ (b - a)) else s.mem.byte b

/-- The instruction completes with `x[rd] <- v` and changes nothing else; pc is left to the advance phase. -/
def PutsX (i : Instr) (s : State) (rd : Reg) (v : Word) : Prop :=
  ∃ t, exec i s = .next t ∧ WroteX rd v s t ∧ SameF s t ∧ SameSystem s t ∧ t.pc = s.pc ∧ SameMem s t

/-- The instruction completes with `f[rd] <- box(w)` and changes nothing else. -/
def PutsF (i : Instr) (s : State) (rd : Reg) (w : Word32) : Prop :=
  ∃ t, exec i s = .next t ∧ SameX s t ∧ WroteF rd w s t ∧ SameSystem s t ∧ t.pc = s.pc ∧ SameMem s t

/-- The instruction completes with the n low bytes of v stored at `a`, and changes nothing else. -/
def Stores (i : Instr) (s : State) (a n v : Nat) : Prop :=
  ∃ t, exec i s = .next t ∧ SameX s t ∧ SameF s t ∧ SameSystem s t ∧ t.pc = s.pc ∧ WroteMem a n v s t

/-- The instruction completes with the n low bytes of v stored at `a` and `x[rd] <- u`, and changes nothing else. -/
def StoresAndPuts (i : Instr) (s : State) (a n v : Nat) (rd : Reg) (u : Word) : Prop :=
  ∃ t, exec i s = .next t ∧ WroteX rd u s t ∧ SameF s t ∧ SameSystem s t ∧ t.pc = s.pc ∧ WroteMem a n v s t

/-- The instruction completes with `csr[a] <- v` and `x[rd] <- u`, and changes nothing else. -/
def PutsCsr (i : Instr) (s : State) (a : CsrIndex) (v : Word) (rd : Reg) (u : Word) : Prop :=
  ∃ t, exec i s = .next t ∧ WroteX rd u s t ∧ SameF s t ∧ t.fcsr = s.fcsr ∧
    (∀ b, t.readCsr b = if b = a then v else s.readCsr b) ∧ t.priv = s.priv ∧ t.halted = s.halted ∧
    t.pc = s.pc ∧ SameMem s t

/-- The instruction completes; the pc after the advance phase is `target`; `x[rd] <- link`; nothing else changes. -/
def JumpsAndLinks (i : Instr) (s : State) (target : Word) (rd : Reg) (link : Word) : Prop :=
  ∃ t, exec i s = .next t ∧ t.pc = target - 4 ∧ (advance t).pc = target ∧ WroteX rd link s t ∧ SameF s t ∧
    SameSystem s t ∧ SameMem s t

/-- The instruction completes; the pc after the advance phase is `target`; nothing else changes. -/
def GoesTo (i : Instr) (s : State) (target : Word) : Prop :=
  ∃ t, exec i s = .next t ∧ (advance t).pc = target ∧ SameX s t ∧ SameF s t ∧ SameSystem s t ∧ SameMem s t

/-! ### Integers -/

/-- `sext_64(z[31:0])` of an exact integer z: the result of every word instruction (R131). -/
def word32 (z : Int) : Word := BitVec.ofInt 64 (z.bmod (2 ^ 32))

/-- `signed(v[31:0])`. -/
def signed32 (v : Word) : Int := (v.toNat : Int).bmod (2 ^ 32)

/-- `unsigned(v[31:0])`. -/
def unsigned32 (v : Word) : Nat := v.toNat % 2 ^ 32

/-- 1 or 0. -/
def oneIf (p : Prop) [Decidable p] : Word := if p then 1 else 0

/-! ### Memory windows (R52, R56) -/

/-- "sum over i from 0 to n-1 of `byte[a+i] * 256^i`". -/
def windowValue (m : Memory) (a n : Nat) : Nat := ((List.range n).map fun i => (m.byte (a + i)).toNat * 256 ^ i).sum

/-- `unsigned(addr) + n <= MEM_SIZE`, in exact integers. -/
def Inside (s : State) (addr : Word) (w : Width) : Prop := addr.toNat + w.bytes ≤ s.mem.size

/-- A negative 12-bit displacement, sign-extended: with rs1 = x0, an address "outside any buffer" (R200). -/
def NegativeDisplacement (imm : Word) : Prop := -2048 ≤ imm.toInt ∧ imm.toInt < 0

/-- The 8n-bit value as a signed number (R201). -/
def signedWindow (n : Nat) (v : Nat) : Word := BitVec.ofInt 64 ((v : Int).bmod (256 ^ n))

/-- The address and width of the one data access of a memory instruction (R51, R58); `none` for the others. -/
def dataAccess (i : Instr) (s : State) : Option (Word × Width) :=
  match i with
  | .lb _ rs1 imm | .lbu _ rs1 imm | .sb rs1 _ imm => some (s.readX rs1 + imm, .byte)
  | .lh _ rs1 imm | .lhu _ rs1 imm | .sh rs1 _ imm => some (s.readX rs1 + imm, .half)
  | .lw _ rs1 imm | .lwu _ rs1 imm | .sw rs1 _ imm | .flw _ rs1 imm | .fsw rs1 _ imm => some (s.readX rs1 + imm, .word)
  | .ld _ rs1 imm | .sd rs1 _ imm => some (s.readX rs1 + imm, .double)
  | .lrW _ rs1 | .scW _ rs1 _ | .amoswapW _ rs1 _ | .amoaddW _ rs1 _ | .amoxorW _ rs1 _ | .amoandW _ rs1 _
  | .amoorW _ rs1 _ | .amominW _ rs1 _ | .amomaxW _ rs1 _ | .amominuW _ rs1 _ | .amomaxuW _ rs1 _ =>
    some (s.readX rs1, .word)
  | .lrD _ rs1 | .scD _ rs1 _ | .amoswapD _ rs1 _ | .amoaddD _ rs1 _ | .amoxorD _ rs1 _ | .amoandD _ rs1 _
  | .amoorD _ rs1 _ | .amominD _ rs1 _ | .amomaxD _ rs1 _ | .amominuD _ rs1 _ | .amomaxuD _ rs1 _ =>
    some (s.readX rs1, .double)
  | _ => none

/-- The instruction names a rounding mode that must abort (R244 (c)). -/
def badRounding : Instr → Bool
  | .fcvtSW _ _ rm | .fcvtSWu _ _ rm | .fcvtSL _ _ rm | .fcvtSLu _ _ rm =>
    rm == .reserved5 || rm == .reserved6 || rm == .dyn
  | _ => false

/-! ### Binary32 (R15) -/

/-- The rational a finite pattern denotes: sign bit 31, exponent bits 30:23 with bias 127, fraction bits 22:0. -/
def value (a : Word32) : ℚ :=
  (if a.getLsbD 31 then -1 else 1) *
    (if bits a 23 8 = 0 then (bits a 0 23).toNat * (2 : ℚ) ^ (-149 : ℤ)
     else (2 ^ 23 + (bits a 0 23).toNat) * (2 : ℚ) ^ (((bits a 23 8).toNat : ℤ) - 150))

/-- Exponent not 255. -/
def IsFinite (a : Word32) : Prop := bits a 23 8 ≠ 255#8

/-- Exponent 255, fraction not 0. -/
def NaN (a : Word32) : Prop := bits a 23 8 = 255#8 ∧ bits a 0 23 ≠ 0#23

/-- Infinity of a sign. -/
def inf (neg : Bool) : Word32 := if neg then 0xFF800000#32 else 0x7F800000#32

/-- Zero of a sign. -/
def zero (neg : Bool) : Word32 := if neg then 0x80000000#32 else 0x00000000#32

/-- Sign bit. -/
def sign (a : Word32) : Bool := a.getLsbD 31

/-- The extended value of a pattern that is not a NaN, infinities below and above every rational. -/
def extValue (a : Word32) : WithBot (WithTop ℚ) :=
  if a = inf true then ⊥ else if a = inf false then ((⊤ : WithTop ℚ) : WithBot (WithTop ℚ)) else (((value a : ℚ) : WithTop ℚ) : WithBot (WithTop ℚ))

/-- r is a finite pattern as near to q as any. -/
def Nearest (q : ℝ) (r : Word32) : Prop :=
  IsFinite r ∧ ∀ w, IsFinite w → |((value r : ℚ) : ℝ) - q| ≤ |((value w : ℚ) : ℝ) - q|

/-- `round_f32(q, rm)` for a q that does not overflow (R15, R244). -/
def RoundsTo (rm : RoundMode) (q : ℝ) (r : Word32) : Prop :=
  match rm with
  | .rne => Nearest q r ∧ ∀ w, IsFinite w → |((value w : ℚ) : ℝ) - q| = |((value r : ℚ) : ℝ) - q| →
      value w ≠ value r → r.getLsbD 0 = false
  | .rmm => Nearest q r ∧ ∀ w, IsFinite w → |((value w : ℚ) : ℝ) - q| = |((value r : ℚ) : ℝ) - q| →
      value w ≠ value r → |value w| < |value r|
  | .rtz => IsFinite r ∧ |((value r : ℚ) : ℝ)| ≤ |q| ∧ 0 ≤ ((value r : ℚ) : ℝ) * q ∧
      ∀ w, IsFinite w → |((value w : ℚ) : ℝ)| ≤ |q| → |value w| ≤ |value r|
  | .rdn => IsFinite r ∧ ((value r : ℚ) : ℝ) ≤ q ∧ ∀ w, IsFinite w → ((value w : ℚ) : ℝ) ≤ q → value w ≤ value r
  | .rup => IsFinite r ∧ q ≤ ((value r : ℚ) : ℝ) ∧ ∀ w, IsFinite w → q ≤ ((value w : ℚ) : ℝ) → value r ≤ value w

/-- "the exact real result rounded once to binary32 by round-to-nearest, ties-to-even" for a non-zero exact result, a
result that rounds to zero keeping its sign; "Overflow under RNE gives an infinity of the result's sign" from half a
spacing above the largest finite number on (R241). -/
def RoundedOnce (q : ℝ) (r : Word32) : Prop :=
  q ≠ 0 → (|q| < 2 ^ 128 - 2 ^ 103 → RoundsTo .rne q r ∧ (sign r = true ↔ q < 0)) ∧
    (2 ^ 128 - 2 ^ 103 ≤ |q| → (q < 0 → r = inf true) ∧ (0 < q → r = inf false))

/-- Truncation toward zero. -/
def truncToward0 (q : ℚ) : Int := if q < 0 then ⌈q⌉ else ⌊q⌋

/-- R246: the conversion to an integer between lo and hi. -/
def convert (lo hi : Int) (a : Word32) : Int :=
  if bits a 23 8 = 255#8 then (if bits a 0 23 = 0#23 ∧ sign a = true then lo else hi)
  else max lo (min hi (truncToward0 (value a)))

end Sys2Proof.Claims

open Sys2Proof Sys2Proof.Machine Sys2Proof.Claims

/-! ### Reset -/

/-- R41, R371 for every choice of the open parameters. The zero values are the spec's decisions D17, D18, D28. -/
def Obligations.ResetLeavesTheTable : Prop :=
  ∀ p : ResetParams,
    (∀ r : Reg, (State.resetWith p).readX r = if r = 2 then p.spDefault else 0) ∧
    (∀ r : Reg, (State.resetWith p).readF r = p.fregReset[r.val]) ∧
    (State.resetWith p).fcsr = 0 ∧ (∀ a, (State.resetWith p).readCsr a = 0) ∧ (State.resetWith p).pc = 0 ∧
    (State.resetWith p).priv = .machine ∧ (State.resetWith p).halted = none ∧ (State.resetWith p).mem = p.mem

/-- The invariant holds at reset. -/
def Obligations.ResetMeetsTheInvariant : Prop := State.reset.Inv

/-- R61, R372, R377: the loader puts IMAGE at address 0, leaves every other byte, and the reset state runs on it. -/
def Obligations.BootLoadsTheImage : Prop :=
  ∀ (p : ResetParams) (image : List Byte),
    (∀ i, (boot p image).mem.byte i = if h : i < image.length then image[i] else p.mem.byte i) ∧
    (boot p image).mem.size = p.mem.size ∧ (boot p image).pc = 0 ∧ (boot p image).halted = none ∧
    (p.mem.wf → image.length ≤ p.mem.size → (boot p image).mem.wf)

/-! ### The cycle -/

/-- R27, R28: on a running machine whose word at pc lies in the buffer and decodes, the step is that instruction's
execute phase and then the advance by 4 and the clamp, which no read observes. -/
def Obligations.StepRunsTheDecodedInstruction : Prop :=
  ∀ (s : State) (i : Instr), s.halted = none → Inside s s.pc .word →
    decode (BitVec.ofNat 32 (windowValue s.mem s.pc.toNat 4)) = .ok i →
    (∀ t, exec i s = .next t → ∃ u, step s = .next u ∧ u.pc = t.pc + 4 ∧ SameX t u ∧ SameF t u ∧ SameSystem t u ∧
      SameMem t u ∧ u.x[0] = 0) ∧
    (∀ c, exec i s = .fault c → step s = .fault c)

/-- R69, R343: a fetch outside the buffer stops with MemoryFault(pc, 4), among them every window that would wrap past
2^64, whatever MEM_SIZE (R56). R341: a word of no row stops with DecodeError(word). -/
def Obligations.FetchAndDecodeStops : Prop :=
  ∀ s : State, s.halted = none →
    (¬ Inside s s.pc .word → step s = .fault (.memoryFault s.pc .word)) ∧
    (2 ^ 64 < s.pc.toNat + 4 → step s = .fault (.memoryFault s.pc .word)) ∧
    (Inside s s.pc .word → Undefined (BitVec.ofNat 32 (windowValue s.mem s.pc.toNat 4)) →
      step s = .fault (.decodeError (BitVec.ofNat 32 (windowValue s.mem s.pc.toNat 4))))

/-- R340, R349, R384: exactly when a cycle of a running machine completes, and that it stops otherwise with one of the
spec's conditions and never with a refusal. -/
def Obligations.CycleCompletesExactlyWhen : Prop :=
  ∀ s : State, s.halted = none →
    ((∃ u, step s = .next u) ↔
      Inside s s.pc .word ∧ ∃ i, decode (BitVec.ofNat 32 (windowValue s.mem s.pc.toNat 4)) = .ok i ∧
        badRounding i = false ∧ ∀ addr w, dataAccess i s = some (addr, w) → Inside s addr w) ∧
    ((∃ u, step s = .next u) ∨ (∃ addr w, step s = .fault (.memoryFault addr w)) ∨
      (∃ w, step s = .fault (.decodeError w)) ∨ ∃ w, step s = .fault (.unsupportedRoundingMode w))

/-- R343, R344, R349: the one condition an instruction can raise, and that it completes otherwise. R56, R200: an access whose
window would wrap past 2^64, and one at any of the top 2048 addresses, faults whatever MEM_SIZE. -/
def Obligations.ExecRaisesOnlyItsCondition : Prop :=
  ∀ (i : Instr) (s : State),
    (∀ addr w, dataAccess i s = some (addr, w) → ¬ Inside s addr w → exec i s = .fault (.memoryFault addr w)) ∧
    (∀ addr w, dataAccess i s = some (addr, w) → 2 ^ 64 < addr.toNat + w.bytes →
      exec i s = .fault (.memoryFault addr w)) ∧
    (∀ addr w, dataAccess i s = some (addr, w) → 0xFFFFFFFFFFFFF800 ≤ addr.toNat →
      exec i s = .fault (.memoryFault addr w)) ∧
    (badRounding i = true → exec i s = .fault (.unsupportedRoundingMode (encode i))) ∧
    (badRounding i = false → (∀ addr w, dataAccess i s = some (addr, w) → Inside s addr w) →
      ∃ t, exec i s = .next t)

/-- R346: a fatal condition leaves everything but `halted` as it was, and a halted machine stays as it is (the second
half is the model's choice, log 5). -/
def Obligations.FatalConditionIsPreciseAndFinal : Prop :=
  (∀ (s : State) (c : Fault), s.halted = none → step s = .fault c →
    (cycle s).halted = some c ∧ SameX s (cycle s) ∧ SameF s (cycle s) ∧ (cycle s).fcsr = s.fcsr ∧
      (∀ a, (cycle s).readCsr a = s.readCsr a) ∧ (cycle s).priv = s.priv ∧ (cycle s).pc = s.pc ∧
      SameMem s (cycle s)) ∧
  (∀ (s : State) (c : Fault) (n : Nat), s.halted = some c → step s = .fault c ∧ cycles n s = s)

/-- From every state that meets the invariant a step gives a state that meets it: canonical memory and CSR bank, slot 0
zero, an even pc (R30), bits 31:8 of fcsr zero (R35), Machine level (R38). -/
def Obligations.StepKeepsTheInvariant : Prop :=
  ∀ s t : State, s.Inv → step s = .next t → t.Inv

/-- R35, R243, R353, R9: no step changes fcsr, the privilege level or MEM_SIZE. -/
def Obligations.StepNeverChangesFcsrPrivMemSize : Prop :=
  ∀ s t : State, step s = .next t → t.fcsr = s.fcsr ∧ t.priv = s.priv ∧ t.mem.size = s.mem.size ∧ t.halted = none

/-- R353, R35: no instruction's behaviour depends on the privilege level or on fcsr. -/
def Obligations.PrivAndFcsrAreNeverObserved : Prop :=
  ∀ (i : Instr) (s : State) (p : Priv) (c : Word32),
    (∀ t, exec i s = .next t → exec i { s with priv := p, fcsr := c } = .next { t with priv := p, fcsr := c }) ∧
    (∀ e, exec i s = .fault e → exec i { s with priv := p, fcsr := c } = .fault e)

/-- R34: no instruction can observe bits 63:32 of a container. Two states alike but for them give next states alike
but for them, or the same condition. -/
def Obligations.UpperWordsAreNeverObserved : Prop :=
  ∀ (i : Instr) (s : State) (g : Vector Word 32), (∀ r : Reg, (g[r.val]).extractLsb' 0 32 = s.readS r) →
    (∀ t, exec i s = .next t → ∃ h : Vector Word 32, (∀ r : Reg, (h[r.val]).extractLsb' 0 32 = t.readS r) ∧
      exec i { s with f := g } = .next { t with f := h }) ∧
    (∀ e, exec i s = .fault e → exec i { s with f := g } = .fault e)

/-- R34: a container an instruction writes is boxed. -/
def Obligations.FloatWritesAreBoxed : Prop :=
  ∀ (i : Instr) (s t : State), exec i s = .next t →
    ∀ r : Reg, t.readF r = s.readF r ∨ (t.readF r).extractLsb' 32 32 = 0xFFFFFFFF#32

/-- R21, R22, R11, R33: register 0 reads 0 in every state and a write to it changes nothing; every other register, every
container and every CSR reads the value written and leaves the others; `unbox(box(w)) = w`, `unbox(c) = c[31:0]`. -/
def Obligations.RegisterFilesReadAndWrite : Prop :=
  (∀ s : State, s.readX 0 = 0) ∧ (∀ (s : State) (v : Word), s.writeX 0 v = s) ∧
  (∀ (s : State) (i r : Reg) (v : Word), (s.writeX i v).readX r = if r = i ∧ i ≠ 0 then v else s.readX r) ∧
  (∀ (s : State) (i r : Reg) (v : Word), (s.writeF i v).readF r = if r = i then v else s.readF r) ∧
  (∀ (s : State) (a b : CsrIndex) (v : Word), (s.writeCsr a v).readCsr b = if b = a then v else s.readCsr b) ∧
  (∀ (w : Word32) (c : Word), box w = 0xFFFFFFFF#32 ++ w ∧ unbox (box w) = w ∧ unbox c = c.extractLsb' 0 32)

/-! ### Memory -/

/-- R52: the value of a window, and the bytes a write sets, little-endian. -/
def Obligations.MemoryIsLittleEndian : Prop :=
  ∀ (m : Memory) (addr : Word) (w : Width) (v : Word), addr.toNat + w.bytes ≤ m.size →
    m.read addr w = some (BitVec.ofNat 64 (windowValue m addr.toNat w.bytes)) ∧
    ∃ m', m.write addr w v = some m' ∧ m'.size = m.size ∧
      ∀ b, m'.byte b = if addr.toNat ≤ b ∧ b < addr.toNat + w.bytes
        then v.extractLsb' (8 * (b - addr.toNat)) 8 else m.byte b

/-- R54: a read of any width inside a window written with any width returns the bits the bytes hold. -/
def Obligations.MixedWidthReads : Prop :=
  ∀ (m m' : Memory) (a b : Word) (w u : Width) (v : Word), m.write a w v = some m' → a.toNat ≤ b.toNat →
    b.toNat + u.bytes ≤ a.toNat + w.bytes →
    m'.read b u = some (BitVec.ofNat 64 (v.toNat / 256 ^ (b.toNat - a.toNat) % 256 ^ u.bytes))

/-- The canonical form: writes keep it, and memories that read alike are equal data. -/
def Obligations.MemoryStaysCanonical : Prop :=
  (∀ (m m' : Memory) (addr : Word) (w : Width) (v : Word), m.wf → m.write addr w v = some m' → m'.wf) ∧
  (∀ m m' : Memory, m.wf → m'.wf → m.size = m'.size → (∀ a, m.byte a = m'.byte a) → m = m')

/-- R66, R382: a word stored at the next instruction's address is the word the next cycle fetches. -/
def Obligations.StoredWordIsFetchedNext : Prop :=
  ∀ (s t : State) (rs1 rs2 : Reg) (imm : Word), s.readX rs1 + imm = s.pc + 4 →
    exec (.sw rs1 rs2 imm) s = .next t → fetch (advance t) = .ok ((s.readX rs2).extractLsb' 0 32)

/-! ### Encoding -/

/-- R124: every well-formed instruction comes back from its word, with every value of the ignored bits of R117; and every
word that decodes is the word of a well-formed instruction, its ignored bits apart. -/
def Obligations.DecodeInvertsEncode : Prop :=
  (∀ (i : Instr) (v : Word32), i.wf = true → decode (encode i ||| (v &&& ignoredBits i)) = .ok i) ∧
  (∀ (w : Word32) (i : Instr), decode w = .ok i → i.wf = true ∧ encode i = w &&& ~~~(ignoredBits i))

/-- Words written out from the spec's encodings, one of each family (the examples of files 30 and 40 to 46). -/
def Obligations.ExampleWordsDecode : Prop :=
  decode 0xFFF08093#32 = .ok (.addi 1 1 (-1)) ∧ decode 0xFE742E23#32 = .ok (.sw 8 7 (-4)) ∧
  decode 0xFE629EE3#32 = .ok (.bne 5 6 (-2)) ∧ decode 0x800002B7#32 = .ok (.lui 5 (-524288)) ∧
  decode 0xFF9FF06F#32 = .ok (.jal 0 (-8)) ∧ decode 0x43F35293#32 = .ok (.srai 5 6 63) ∧
  decode 0x0220A1B3#32 = .ok (.mulhsu 3 1 2) ∧ decode 0xE663B2AF#32 = .ok (.amomaxuD 5 7 6) ∧
  decode 0x340AD2F3#32 = .ok (.csrrwi 5 21 0x340#12) ∧ decode 0x1820F243#32 = .ok (.fmaddS 4 1 2 3) ∧
  decode 0xD002B0D3#32 = .ok (.fcvtSW 1 5 (.static .rup)) ∧ decode 0xFFFF9F8F#32 = .ok .fenceI

/-- R97 to R113, R118, R119: a word is a DecodeError exactly when it stands in no filled cell of the group tables. -/
def Obligations.UndefinedWordsAreRejected : Prop :=
  ∀ w : Word32, Undefined w ↔ defined w = false

/-! ### Integer computational instructions -/

/-- R133 to R138: operands, encoding, result and frame. -/
def Obligations.RegisterImmediateResults : Prop :=
  (IForm 0b0010011#7 0b000#3 .addi ∧ ∀ s rd rs1 imm,
    PutsX (.addi rd rs1 imm) s rd (BitVec.ofInt 64 ((s.readX rs1).toInt + imm.toInt))) ∧
  (IForm 0b0010011#7 0b010#3 .slti ∧ ∀ s rd rs1 imm,
    PutsX (.slti rd rs1 imm) s rd (oneIf ((s.readX rs1).toInt < imm.toInt))) ∧
  (IForm 0b0010011#7 0b011#3 .sltiu ∧ ∀ s rd rs1 imm,
    PutsX (.sltiu rd rs1 imm) s rd (oneIf ((s.readX rs1).toNat < imm.toNat))) ∧
  (IForm 0b0010011#7 0b100#3 .xori ∧ ∀ s rd rs1 imm, PutsX (.xori rd rs1 imm) s rd (s.readX rs1 ^^^ imm)) ∧
  (IForm 0b0010011#7 0b110#3 .ori ∧ ∀ s rd rs1 imm, PutsX (.ori rd rs1 imm) s rd (s.readX rs1 ||| imm)) ∧
  (IForm 0b0010011#7 0b111#3 .andi ∧ ∀ s rd rs1 imm, PutsX (.andi rd rs1 imm) s rd (s.readX rs1 &&& imm))

/-- R139 to R141: a shift of any amount the encoding admits, 0 to 63; SLLI with inst[31:26] not 000000 is a
DecodeError. -/
def Obligations.ShiftImmediateResults : Prop :=
  (Shift6Form 0b0010011#7 0b001#3 0b000000#6 .slli ∧ ∀ s rd rs1 (shamt : Word), shamt.toNat < 64 →
    PutsX (.slli rd rs1 shamt) s rd (BitVec.ofNat 64 ((s.readX rs1).toNat * 2 ^ shamt.toNat))) ∧
  (Shift6Form 0b0010011#7 0b101#3 0b000000#6 .srli ∧ ∀ s rd rs1 (shamt : Word), shamt.toNat < 64 →
    PutsX (.srli rd rs1 shamt) s rd (BitVec.ofNat 64 ((s.readX rs1).toNat / 2 ^ shamt.toNat))) ∧
  (Shift6Form 0b0010011#7 0b101#3 0b010000#6 .srai ∧ ∀ s rd rs1 (shamt : Word), shamt.toNat < 64 →
    PutsX (.srai rd rs1 shamt) s rd (BitVec.ofInt 64 ((s.readX rs1).toInt / 2 ^ shamt.toNat))) ∧
  (∀ w : Word32, bits w 0 7 = 0b0010011#7 → bits w 12 3 = 0b001#3 → bits w 26 6 ≠ 0b000000#6 → Undefined w)

/-- R142, R143, R145 to R147, R150, R151. -/
def Obligations.RegisterRegisterResults : Prop :=
  (RForm 0b0110011#7 0b000#3 0b0000000#7 .add ∧ ∀ s rd rs1 rs2,
    PutsX (.add rd rs1 rs2) s rd (BitVec.ofNat 64 ((s.readX rs1).toNat + (s.readX rs2).toNat))) ∧
  (RForm 0b0110011#7 0b000#3 0b0100000#7 .sub ∧ ∀ s rd rs1 rs2,
    PutsX (.sub rd rs1 rs2) s rd (BitVec.ofInt 64 ((s.readX rs1).toNat - (s.readX rs2).toNat))) ∧
  (RForm 0b0110011#7 0b010#3 0b0000000#7 .slt ∧ ∀ s rd rs1 rs2,
    PutsX (.slt rd rs1 rs2) s rd (oneIf ((s.readX rs1).toInt < (s.readX rs2).toInt))) ∧
  (RForm 0b0110011#7 0b011#3 0b0000000#7 .sltu ∧ ∀ s rd rs1 rs2,
    PutsX (.sltu rd rs1 rs2) s rd (oneIf ((s.readX rs1).toNat < (s.readX rs2).toNat))) ∧
  (RForm 0b0110011#7 0b100#3 0b0000000#7 .xor ∧ ∀ s rd rs1 rs2,
    PutsX (.xor rd rs1 rs2) s rd (s.readX rs1 ^^^ s.readX rs2)) ∧
  (RForm 0b0110011#7 0b110#3 0b0000000#7 .or ∧ ∀ s rd rs1 rs2,
    PutsX (.or rd rs1 rs2) s rd (s.readX rs1 ||| s.readX rs2)) ∧
  (RForm 0b0110011#7 0b111#3 0b0000000#7 .and ∧ ∀ s rd rs1 rs2,
    PutsX (.and rd rs1 rs2) s rd (s.readX rs1 &&& s.readX rs2))

/-- R144, R148, R149: only the low 6 bits of the amount register count. -/
def Obligations.ShiftRegisterResults : Prop :=
  (RForm 0b0110011#7 0b001#3 0b0000000#7 .sll ∧ ∀ s rd rs1 rs2,
    PutsX (.sll rd rs1 rs2) s rd (BitVec.ofNat 64 ((s.readX rs1).toNat * 2 ^ ((s.readX rs2).toNat % 64)))) ∧
  (RForm 0b0110011#7 0b101#3 0b0000000#7 .srl ∧ ∀ s rd rs1 rs2,
    PutsX (.srl rd rs1 rs2) s rd (BitVec.ofNat 64 ((s.readX rs1).toNat / 2 ^ ((s.readX rs2).toNat % 64)))) ∧
  (RForm 0b0110011#7 0b101#3 0b0100000#7 .sra ∧ ∀ s rd rs1 rs2,
    PutsX (.sra rd rs1 rs2) s rd (BitVec.ofInt 64 ((s.readX rs1).toInt / 2 ^ ((s.readX rs2).toNat % 64))))

/-- R152, R156, R157: computed on 32 bits, then sign-extended (R131). -/
def Obligations.WordArithmeticResults : Prop :=
  (IForm 0b0011011#7 0b000#3 .addiw ∧ ∀ s rd rs1 imm,
    PutsX (.addiw rd rs1 imm) s rd (word32 (unsigned32 (s.readX rs1) + unsigned32 imm))) ∧
  (RForm 0b0111011#7 0b000#3 0b0000000#7 .addw ∧ ∀ s rd rs1 rs2,
    PutsX (.addw rd rs1 rs2) s rd (word32 (unsigned32 (s.readX rs1) + unsigned32 (s.readX rs2)))) ∧
  (RForm 0b0111011#7 0b000#3 0b0100000#7 .subw ∧ ∀ s rd rs1 rs2,
    PutsX (.subw rd rs1 rs2) s rd (word32 (unsigned32 (s.readX rs1) - unsigned32 (s.readX rs2))))

/-- R153 to R155: any amount the encoding admits, 0 to 31; SLLIW with inst[25] = 1 is a DecodeError. -/
def Obligations.WordShiftImmediateResults : Prop :=
  (Shift5Form 0b0011011#7 0b001#3 0b0000000#7 .slliw ∧ ∀ s rd rs1 (shamt : Word), shamt.toNat < 32 →
    PutsX (.slliw rd rs1 shamt) s rd (word32 (unsigned32 (s.readX rs1) * 2 ^ shamt.toNat))) ∧
  (Shift5Form 0b0011011#7 0b101#3 0b0000000#7 .srliw ∧ ∀ s rd rs1 (shamt : Word), shamt.toNat < 32 →
    PutsX (.srliw rd rs1 shamt) s rd (word32 (unsigned32 (s.readX rs1) / 2 ^ shamt.toNat))) ∧
  (Shift5Form 0b0011011#7 0b101#3 0b0100000#7 .sraiw ∧ ∀ s rd rs1 (shamt : Word), shamt.toNat < 32 →
    PutsX (.sraiw rd rs1 shamt) s rd (word32 (signed32 (s.readX rs1) / 2 ^ shamt.toNat))) ∧
  (∀ w : Word32, bits w 0 7 = 0b0011011#7 → bits w 12 3 = 0b001#3 → bits w 25 1 = 1#1 → Undefined w)

/-- R158 to R160: the low 5 bits of the amount register count (the spec's decision D9, conflict C3). -/
def Obligations.WordShiftRegisterResults : Prop :=
  (RForm 0b0111011#7 0b001#3 0b0000000#7 .sllw ∧ ∀ s rd rs1 rs2,
    PutsX (.sllw rd rs1 rs2) s rd (word32 (unsigned32 (s.readX rs1) * 2 ^ ((s.readX rs2).toNat % 32)))) ∧
  (RForm 0b0111011#7 0b101#3 0b0000000#7 .srlw ∧ ∀ s rd rs1 rs2,
    PutsX (.srlw rd rs1 rs2) s rd (word32 (unsigned32 (s.readX rs1) / 2 ^ ((s.readX rs2).toNat % 32)))) ∧
  (RForm 0b0111011#7 0b101#3 0b0100000#7 .sraw ∧ ∀ s rd rs1 rs2,
    PutsX (.sraw rd rs1 rs2) s rd (word32 (signed32 (s.readX rs1) / 2 ^ ((s.readX rs2).toNat % 32))))

/-- R161, R162: `imm_U << 12`, and the same added to the instruction's own address. -/
def Obligations.UpperImmediateResults : Prop :=
  (UForm 0b0110111#7 .lui ∧ ∀ s rd imm, PutsX (.lui rd imm) s rd (BitVec.ofInt 64 (imm.toInt * 2 ^ 12))) ∧
  (UForm 0b0010111#7 .auipc ∧ ∀ s rd imm,
    PutsX (.auipc rd imm) s rd (BitVec.ofInt 64 (s.pc.toNat + imm.toInt * 2 ^ 12)))

/-! ### Control transfer -/

/-- R181: JAL. -/
def Obligations.JumpAndLink : Prop :=
  JForm 0b1101111#7 .jal ∧ ∀ s rd joff, JumpsAndLinks (.jal rd joff) s (s.pc + joff) rd (s.pc + 4)

/-- R182: JALR, from the old x[rs1], bit 0 cleared. The funct3 test is the spec's decision D4. -/
def Obligations.JumpAndLinkRegister : Prop :=
  IForm 0b1100111#7 0b000#3 .jalr ∧ ∀ s rd rs1 imm, JumpsAndLinks (.jalr rd rs1 imm) s
    (BitVec.ofNat 64 ((s.readX rs1 + imm).toNat / 2 * 2)) rd (s.pc + 4)

/-- R183 to R189: "for any taken branch with immediate k, the program counter after the full cycle equals
start_pc + (k << 1), and for any not-taken branch it equals start_pc + 4". -/
def Obligations.BranchesGoWhereTheyShould : Prop :=
  (BForm 0b1100011#7 0b000#3 .beq ∧ ∀ s rs1 rs2 k, GoesTo (.beq rs1 rs2 k) s
    (if s.readX rs1 = s.readX rs2 then s.pc + k <<< 1 else s.pc + 4)) ∧
  (BForm 0b1100011#7 0b001#3 .bne ∧ ∀ s rs1 rs2 k, GoesTo (.bne rs1 rs2 k) s
    (if s.readX rs1 ≠ s.readX rs2 then s.pc + k <<< 1 else s.pc + 4)) ∧
  (BForm 0b1100011#7 0b100#3 .blt ∧ ∀ s rs1 rs2 k, GoesTo (.blt rs1 rs2 k) s
    (if (s.readX rs1).toInt < (s.readX rs2).toInt then s.pc + k <<< 1 else s.pc + 4)) ∧
  (BForm 0b1100011#7 0b101#3 .bge ∧ ∀ s rs1 rs2 k, GoesTo (.bge rs1 rs2 k) s
    (if (s.readX rs1).toInt ≥ (s.readX rs2).toInt then s.pc + k <<< 1 else s.pc + 4)) ∧
  (BForm 0b1100011#7 0b110#3 .bltu ∧ ∀ s rs1 rs2 k, GoesTo (.bltu rs1 rs2 k) s
    (if (s.readX rs1).toNat < (s.readX rs2).toNat then s.pc + k <<< 1 else s.pc + 4)) ∧
  (BForm 0b1100011#7 0b111#3 .bgeu ∧ ∀ s rs1 rs2 k, GoesTo (.bgeu rs1 rs2 k) s
    (if (s.readX rs1).toNat ≥ (s.readX rs2).toNat then s.pc + k <<< 1 else s.pc + 4))

/-! ### Loads and stores -/

/-- R200 to R208: inside the buffer the load completes with the extended window; outside it raises MemoryFault(ea, n).
Any alignment, rd = rs1 and rd = x0 included. rs1 = x0 with a negative displacement faults at that address, whatever
MEM_SIZE. funct3 111 of the group is a DecodeError. The fault is the spec's decision D13. -/
def Obligations.LoadsReadTheirWindow : Prop :=
  let rule (f3 : BitVec 3) (mk : Reg → Reg → Word → Instr) (w : Width) (ext : Nat → Word) : Prop :=
    IForm 0b0000011#7 f3 mk ∧ ∀ s rd rs1 imm,
      (Inside s (s.readX rs1 + imm) w →
        PutsX (mk rd rs1 imm) s rd (ext (windowValue s.mem (s.readX rs1 + imm).toNat w.bytes))) ∧
      (¬ Inside s (s.readX rs1 + imm) w → exec (mk rd rs1 imm) s = .fault (.memoryFault (s.readX rs1 + imm) w)) ∧
      (NegativeDisplacement imm → exec (mk rd 0 imm) s = .fault (.memoryFault imm w))
  rule 0b000#3 .lb .byte (signedWindow 1) ∧ rule 0b001#3 .lh .half (signedWindow 2) ∧
  rule 0b010#3 .lw .word (signedWindow 4) ∧ rule 0b011#3 .ld .double (BitVec.ofNat 64) ∧
  rule 0b100#3 .lbu .byte (BitVec.ofNat 64) ∧ rule 0b101#3 .lhu .half (BitVec.ofNat 64) ∧
  rule 0b110#3 .lwu .word (BitVec.ofNat 64) ∧
  (∀ w : Word32, bits w 0 7 = 0b0000011#7 → bits w 12 3 = 0b111#3 → Undefined w)

/-- R200, R209 to R213: inside the buffer exactly the window's bytes change; outside it MemoryFault(ea, n), and no byte.
rs1 = x0 with a negative displacement faults at that address, whatever MEM_SIZE. funct3 100 to 111 of the group are DecodeErrors. The fault is the spec's decision D13. -/
def Obligations.StoresWriteTheirWindow : Prop :=
  let rule (f3 : BitVec 3) (mk : Reg → Reg → Word → Instr) (w : Width) : Prop :=
    SForm 0b0100011#7 f3 mk ∧ ∀ s rs1 rs2 imm,
      (Inside s (s.readX rs1 + imm) w →
        Stores (mk rs1 rs2 imm) s (s.readX rs1 + imm).toNat w.bytes (s.readX rs2).toNat) ∧
      (¬ Inside s (s.readX rs1 + imm) w → exec (mk rs1 rs2 imm) s = .fault (.memoryFault (s.readX rs1 + imm) w)) ∧
      (NegativeDisplacement imm → exec (mk 0 rs2 imm) s = .fault (.memoryFault imm w))
  rule 0b000#3 .sb .byte ∧ rule 0b001#3 .sh .half ∧ rule 0b010#3 .sw .word ∧ rule 0b011#3 .sd .double ∧
  (∀ w : Word32, bits w 0 7 = 0b0100011#7 → bits w 14 1 = 1#1 → Undefined w)

/-! ### Multiply and divide -/

/-- R222 to R225, R230: exact products, their low or high half; there are no word forms of the high products. -/
def Obligations.MultiplyResults : Prop :=
  (RForm 0b0110011#7 0b000#3 0b0000001#7 .mul ∧ ∀ s rd rs1 rs2,
    PutsX (.mul rd rs1 rs2) s rd (BitVec.ofInt 64 ((s.readX rs1).toInt * (s.readX rs2).toInt))) ∧
  (RForm 0b0110011#7 0b001#3 0b0000001#7 .mulh ∧ ∀ s rd rs1 rs2,
    PutsX (.mulh rd rs1 rs2) s rd (BitVec.ofInt 64 ((s.readX rs1).toInt * (s.readX rs2).toInt / 2 ^ 64))) ∧
  (RForm 0b0110011#7 0b010#3 0b0000001#7 .mulhsu ∧ ∀ s rd rs1 rs2,
    PutsX (.mulhsu rd rs1 rs2) s rd (BitVec.ofInt 64 ((s.readX rs1).toInt * (s.readX rs2).toNat / 2 ^ 64))) ∧
  (RForm 0b0110011#7 0b011#3 0b0000001#7 .mulhu ∧ ∀ s rd rs1 rs2,
    PutsX (.mulhu rd rs1 rs2) s rd (BitVec.ofNat 64 ((s.readX rs1).toNat * (s.readX rs2).toNat / 2 ^ 64))) ∧
  (RForm 0b0111011#7 0b000#3 0b0000001#7 .mulw ∧ ∀ s rd rs1 rs2,
    PutsX (.mulw rd rs1 rs2) s rd (word32 (unsigned32 (s.readX rs1) * unsigned32 (s.readX rs2)))) ∧
  (∀ w : Word32, bits w 0 7 = 0b0111011#7 → bits w 25 7 = 0b0000001#7 →
    (bits w 12 3 = 0b001#3 ∨ bits w 12 3 = 0b010#3 ∨ bits w 12 3 = 0b011#3) → Undefined w)

/-- R226 to R229 with the edge cases of R221 (the spec's decision D10). -/
def Obligations.DivideResults : Prop :=
  (RForm 0b0110011#7 0b100#3 0b0000001#7 .div ∧ ∀ s rd rs1 rs2, PutsX (.div rd rs1 rs2) s rd
    (if (s.readX rs2).toInt = 0 then -1
     else if (s.readX rs1).toInt = -2 ^ 63 ∧ (s.readX rs2).toInt = -1 then 0x8000000000000000#64
     else BitVec.ofInt 64 ((s.readX rs1).toInt.tdiv (s.readX rs2).toInt))) ∧
  (RForm 0b0110011#7 0b101#3 0b0000001#7 .divu ∧ ∀ s rd rs1 rs2, PutsX (.divu rd rs1 rs2) s rd
    (if (s.readX rs2).toNat = 0 then -1 else BitVec.ofNat 64 ((s.readX rs1).toNat / (s.readX rs2).toNat))) ∧
  (RForm 0b0110011#7 0b110#3 0b0000001#7 .rem ∧ ∀ s rd rs1 rs2, PutsX (.rem rd rs1 rs2) s rd
    (if (s.readX rs2).toInt = 0 then s.readX rs1
     else if (s.readX rs1).toInt = -2 ^ 63 ∧ (s.readX rs2).toInt = -1 then 0
     else BitVec.ofInt 64 ((s.readX rs1).toInt.tmod (s.readX rs2).toInt))) ∧
  (RForm 0b0110011#7 0b111#3 0b0000001#7 .remu ∧ ∀ s rd rs1 rs2, PutsX (.remu rd rs1 rs2) s rd
    (if (s.readX rs2).toNat = 0 then s.readX rs1 else BitVec.ofNat 64 ((s.readX rs1).toNat % (s.readX rs2).toNat)))

/-- R231 to R234 with the edge cases of R221 (the spec's decision D10). -/
def Obligations.DivideWordResults : Prop :=
  (RForm 0b0111011#7 0b100#3 0b0000001#7 .divw ∧ ∀ s rd rs1 rs2, PutsX (.divw rd rs1 rs2) s rd
    (if signed32 (s.readX rs2) = 0 then -1
     else if signed32 (s.readX rs1) = -2 ^ 31 ∧ signed32 (s.readX rs2) = -1 then 0xFFFFFFFF80000000#64
     else word32 ((signed32 (s.readX rs1)).tdiv (signed32 (s.readX rs2))))) ∧
  (RForm 0b0111011#7 0b101#3 0b0000001#7 .divuw ∧ ∀ s rd rs1 rs2, PutsX (.divuw rd rs1 rs2) s rd
    (if unsigned32 (s.readX rs2) = 0 then -1
     else word32 (unsigned32 (s.readX rs1) / unsigned32 (s.readX rs2) : Nat))) ∧
  (RForm 0b0111011#7 0b110#3 0b0000001#7 .remw ∧ ∀ s rd rs1 rs2, PutsX (.remw rd rs1 rs2) s rd
    (if signed32 (s.readX rs2) = 0 then word32 (signed32 (s.readX rs1))
     else if signed32 (s.readX rs1) = -2 ^ 31 ∧ signed32 (s.readX rs2) = -1 then 0
     else word32 ((signed32 (s.readX rs1)).tmod (signed32 (s.readX rs2))))) ∧
  (RForm 0b0111011#7 0b111#3 0b0000001#7 .remuw ∧ ∀ s rd rs1 rs2, PutsX (.remuw rd rs1 rs2) s rd
    (if unsigned32 (s.readX rs2) = 0 then word32 (signed32 (s.readX rs1))
     else word32 (unsigned32 (s.readX rs1) % unsigned32 (s.readX rs2) : Nat)))

/-- R221: `dividend = divisor * quotient + remainder` modulo 2^L in every case, division by zero and overflow included,
on the quotient and remainder DIV and REM, DIVU and REMU, and their word forms write. -/
def Obligations.QuotientAndRemainderAgree : Prop :=
  (∀ x y : BitVec 64, y * divS x y + remS x y = x ∧ y * divU x y + remU x y = x) ∧
  (∀ x y : BitVec 32, y * divS x y + remS x y = x ∧ y * divU x y + remU x y = x) ∧
  (∀ x y : BitVec 64, (remS x y).toInt = 0 ∨ ((remS x y).toInt < 0 ↔ x.toInt < 0)) ∧
  (∀ x y : BitVec 32, (remS x y).toInt = 0 ∨ ((remS x y).toInt < 0 ↔ x.toInt < 0))

/-! ### Floating point -/

/-- R250, R251: the 32 bits move unchanged, boxed on the way in. The addresses are those of the integer loads and stores
(R200). -/
def Obligations.FloatLoadAndStore : Prop :=
  (IForm 0b0000111#7 0b010#3 .flw ∧ ∀ s rd rs1 imm,
    (Inside s (s.readX rs1 + imm) .word →
      PutsF (.flw rd rs1 imm) s rd (BitVec.ofNat 32 (windowValue s.mem (s.readX rs1 + imm).toNat 4))) ∧
    (¬ Inside s (s.readX rs1 + imm) .word →
      exec (.flw rd rs1 imm) s = .fault (.memoryFault (s.readX rs1 + imm) .word)) ∧
    (NegativeDisplacement imm → exec (.flw rd 0 imm) s = .fault (.memoryFault imm .word))) ∧
  (SForm 0b0100111#7 0b010#3 .fsw ∧ ∀ s rs1 rs2 imm,
    (Inside s (s.readX rs1 + imm) .word →
      Stores (.fsw rs1 rs2 imm) s (s.readX rs1 + imm).toNat 4 (s.readF rs2).toNat) ∧
    (¬ Inside s (s.readX rs1 + imm) .word →
      exec (.fsw rs1 rs2 imm) s = .fault (.memoryFault (s.readX rs1 + imm) .word)) ∧
    (NegativeDisplacement imm → exec (.fsw 0 rs2 imm) s = .fault (.memoryFault imm .word)))

/-- R256 to R260: the arithmetic instructions complete on every operand and every rm, writing `f32_add` and so on of the
unboxed sources; what those functions are, the next statements say. -/
def Obligations.FloatArithmeticCompletes : Prop :=
  (FpForm 0b0000000#7 .faddS ∧ ∀ s rd rs1 rs2,
    PutsF (.faddS rd rs1 rs2) s rd (f32Add (unbox (s.readF rs1)) (unbox (s.readF rs2)))) ∧
  (FpForm 0b0000100#7 .fsubS ∧ ∀ s rd rs1 rs2,
    PutsF (.fsubS rd rs1 rs2) s rd (f32Sub (unbox (s.readF rs1)) (unbox (s.readF rs2)))) ∧
  (FpForm 0b0001000#7 .fmulS ∧ ∀ s rd rs1 rs2,
    PutsF (.fmulS rd rs1 rs2) s rd (f32Mul (unbox (s.readF rs1)) (unbox (s.readF rs2)))) ∧
  (FpForm 0b0001100#7 .fdivS ∧ ∀ s rd rs1 rs2,
    PutsF (.fdivS rd rs1 rs2) s rd (f32Div (unbox (s.readF rs1)) (unbox (s.readF rs2)))) ∧
  (FpSubForm 0b0101100#7 0b00000#5 .fsqrtS ∧ ∀ s rd rs1,
    PutsF (.fsqrtS rd rs1) s rd (f32Sqrt (unbox (s.readF rs1))))

/-- R252 to R255: the four fused instructions, product and addend negated before the one rounding. -/
def Obligations.FusedMultiplyAddCompletes : Prop :=
  (FusedForm 0b1000011#7 .fmaddS ∧ ∀ s rd rs1 rs2 rs3, PutsF (.fmaddS rd rs1 rs2 rs3) s rd
    (f32Fma (unbox (s.readF rs1)) (unbox (s.readF rs2)) (unbox (s.readF rs3)))) ∧
  (FusedForm 0b1000111#7 .fmsubS ∧ ∀ s rd rs1 rs2 rs3, PutsF (.fmsubS rd rs1 rs2 rs3) s rd
    (f32Fma (unbox (s.readF rs1)) (unbox (s.readF rs2)) (unbox (s.readF rs3) ^^^ 0x80000000#32))) ∧
  (FusedForm 0b1001011#7 .fnmsubS ∧ ∀ s rd rs1 rs2 rs3, PutsF (.fnmsubS rd rs1 rs2 rs3) s rd
    (f32Fma (unbox (s.readF rs1) ^^^ 0x80000000#32) (unbox (s.readF rs2)) (unbox (s.readF rs3)))) ∧
  (FusedForm 0b1001111#7 .fnmaddS ∧ ∀ s rd rs1 rs2 rs3, PutsF (.fnmaddS rd rs1 rs2 rs3) s rd
    (f32Fma (unbox (s.readF rs1) ^^^ 0x80000000#32) (unbox (s.readF rs2)) (unbox (s.readF rs3) ^^^ 0x80000000#32)))

/-- R241, R245: on finite operands sum, difference, product and quotient are the exact result rounded once to nearest
even, subnormals included. -/
def Obligations.FloatArithmeticRoundsOnce : Prop :=
  ∀ a b : Word32, IsFinite a → IsFinite b →
    RoundedOnce ((value a + value b : ℚ) : ℝ) (f32Add a b) ∧
    RoundedOnce ((value a - value b : ℚ) : ℝ) (f32Sub a b) ∧
    RoundedOnce ((value a * value b : ℚ) : ℝ) (f32Mul a b) ∧
    (value b ≠ 0 → RoundedOnce ((value a / value b : ℚ) : ℝ) (f32Div a b))

/-- R241, R252: the fused result is `a*b + c` rounded once. -/
def Obligations.FusedRoundsOnce : Prop :=
  ∀ a b c : Word32, IsFinite a → IsFinite b → IsFinite c →
    RoundedOnce ((value a * value b + value c : ℚ) : ℝ) (f32Fma a b c)

/-- R241, R260: the square root of a positive finite operand, the exact real root rounded once. -/
def Obligations.SquareRootRoundsOnce : Prop :=
  ∀ a : Word32, IsFinite a → 0 < value a → RoundedOnce (Real.sqrt ((value a : ℚ) : ℝ)) (f32Sqrt a)

/-- R241, R242, R256 to R260: NaN operands, invalid operations, infinities, and the signs of exact zeros. -/
def Obligations.FloatSpecialResults : Prop :=
  (∀ a b : Word32, (NaN a ∨ NaN b) →
    f32Add a b = 0x7FC00000#32 ∧ f32Sub a b = 0x7FC00000#32 ∧ f32Mul a b = 0x7FC00000#32 ∧ f32Div a b = 0x7FC00000#32) ∧
  (∀ a b c : Word32, (NaN a ∨ NaN b ∨ NaN c) → f32Fma a b c = 0x7FC00000#32) ∧
  (∀ a : Word32, (NaN a ∨ a = inf true ∨ (IsFinite a ∧ value a < 0)) → f32Sqrt a = 0x7FC00000#32) ∧
  (∀ p q : Bool, f32Add (inf p) (inf q) = (if p = q then inf p else 0x7FC00000#32) ∧
    f32Sub (inf p) (inf q) = (if p = q then 0x7FC00000#32 else inf p) ∧
    f32Mul (inf p) (inf q) = inf (p != q) ∧ f32Div (inf p) (inf q) = 0x7FC00000#32 ∧
    f32Mul (zero p) (inf q) = 0x7FC00000#32 ∧ f32Mul (inf p) (zero q) = 0x7FC00000#32 ∧
    f32Div (zero p) (zero q) = 0x7FC00000#32 ∧ f32Add (zero p) (zero q) = zero (p && q) ∧
    f32Sub (zero p) (zero q) = zero (p && !q) ∧ f32Sqrt (zero p) = zero p) ∧
  f32Sqrt (inf false) = inf false ∧
  (∀ (p : Bool) (b : Word32), IsFinite b → f32Add (inf p) b = inf p ∧ f32Add b (inf p) = inf p ∧
    f32Sub (inf p) b = inf p ∧ f32Sub b (inf p) = inf (!p) ∧ f32Div (inf p) b = inf (p != sign b) ∧
    f32Div b (inf p) = zero (sign b != p)) ∧
  (∀ (p : Bool) (b : Word32), IsFinite b → value b ≠ 0 →
    f32Mul (inf p) b = inf (p != sign b) ∧ f32Mul b (inf p) = inf (sign b != p) ∧
    f32Div b (zero p) = inf (sign b != p) ∧ f32Div (zero p) b = zero (p != sign b)) ∧
  (∀ (p : Bool) (b : Word32), IsFinite b →
    f32Mul (zero p) b = zero (p != sign b) ∧ f32Mul b (zero p) = zero (sign b != p)) ∧
  (∀ a b : Word32, IsFinite a → IsFinite b → value a ≠ 0 → value a + value b = 0 → f32Add a b = zero false) ∧
  (∀ a b : Word32, IsFinite a → IsFinite b → value a ≠ 0 → value a = value b → f32Sub a b = zero false)

/-- R242, R252: the fused product's and sum's invalid cases, infinities, and exact zeros. -/
def Obligations.FusedSpecialResults : Prop :=
  (∀ (p q : Bool) (c : Word32), f32Fma (zero p) (inf q) c = 0x7FC00000#32 ∧ f32Fma (inf p) (zero q) c = 0x7FC00000#32) ∧
  (∀ (p r : Bool) (b : Word32), ¬ NaN b → b ≠ zero true → b ≠ zero false →
    f32Fma (inf p) b (inf r) = (if r = (p != sign b) then inf r else 0x7FC00000#32) ∧
    f32Fma b (inf p) (inf r) = (if r = (p != sign b) then inf r else 0x7FC00000#32)) ∧
  (∀ (p : Bool) (b c : Word32), ¬ NaN b → b ≠ zero true → b ≠ zero false → IsFinite c →
    f32Fma (inf p) b c = inf (p != sign b) ∧ f32Fma b (inf p) c = inf (p != sign b)) ∧
  (∀ (a b : Word32) (r : Bool), IsFinite a → IsFinite b → f32Fma a b (inf r) = inf r) ∧
  (∀ a b c : Word32, IsFinite a → IsFinite b → IsFinite c → value a * value b + value c = 0 →
    f32Fma a b c = zero ((sign a != sign b) && sign c))

/-- R261 to R263: bitwise on the sign; funct3 011 to 111 of the group are DecodeErrors. -/
def Obligations.SignInjectionResults : Prop :=
  (RForm 0b1010011#7 0b000#3 0b0010000#7 .fsgnjS ∧ ∀ s rd rs1 rs2, PutsF (.fsgnjS rd rs1 rs2) s rd
    ((unbox (s.readF rs1) &&& 0x7FFFFFFF#32) ||| (unbox (s.readF rs2) &&& 0x80000000#32))) ∧
  (RForm 0b1010011#7 0b001#3 0b0010000#7 .fsgnjnS ∧ ∀ s rd rs1 rs2, PutsF (.fsgnjnS rd rs1 rs2) s rd
    ((unbox (s.readF rs1) &&& 0x7FFFFFFF#32) ||| (~~~(unbox (s.readF rs2)) &&& 0x80000000#32))) ∧
  (RForm 0b1010011#7 0b010#3 0b0010000#7 .fsgnjxS ∧ ∀ s rd rs1 rs2, PutsF (.fsgnjxS rd rs1 rs2) s rd
    (unbox (s.readF rs1) ^^^ (unbox (s.readF rs2) &&& 0x80000000#32))) ∧
  (∀ w : Word32, bits w 0 7 = 0b1010011#7 → bits w 25 7 = 0b0010000#7 → bits w 12 3 ≠ 0b000#3 → bits w 12 3 ≠ 0b001#3 →
    bits w 12 3 ≠ 0b010#3 → Undefined w)

/-- R264, R265: the non-NaN operand over a NaN, `cnan` for two, -0 below +0. -/
def Obligations.MinMaxResults : Prop :=
  (RForm 0b1010011#7 0b000#3 0b0010100#7 .fminS ∧ ∀ s rd rs1 rs2, ∃ r,
    PutsF (.fminS rd rs1 rs2) s rd r ∧
    (let a := unbox (s.readF rs1); let b := unbox (s.readF rs2)
     (NaN a → NaN b → r = 0x7FC00000#32) ∧ (NaN a → ¬ NaN b → r = b) ∧ (¬ NaN a → NaN b → r = a) ∧
     (¬ NaN a → ¬ NaN b → (extValue a < extValue b → r = a) ∧ (extValue b < extValue a → r = b) ∧
       (extValue a = extValue b → r = if sign a then a else b)))) ∧
  (RForm 0b1010011#7 0b001#3 0b0010100#7 .fmaxS ∧ ∀ s rd rs1 rs2, ∃ r,
    PutsF (.fmaxS rd rs1 rs2) s rd r ∧
    (let a := unbox (s.readF rs1); let b := unbox (s.readF rs2)
     (NaN a → NaN b → r = 0x7FC00000#32) ∧ (NaN a → ¬ NaN b → r = b) ∧ (¬ NaN a → NaN b → r = a) ∧
     (¬ NaN a → ¬ NaN b → (extValue b < extValue a → r = a) ∧ (extValue a < extValue b → r = b) ∧
       (extValue a = extValue b → r = if sign a then b else a))))

/-- R271 to R273: quiet comparisons, 0 on a NaN; funct3 011 to 111 of the group are DecodeErrors. -/
def Obligations.FloatCompareResults : Prop :=
  let rule (f3 : BitVec 3) (mk : Reg → Reg → Reg → Instr) (rel : WithBot (WithTop ℚ) → WithBot (WithTop ℚ) → Prop) :
      Prop :=
    RForm 0b1010011#7 f3 0b1010000#7 mk ∧ ∀ s rd rs1 rs2, ∃ v, PutsX (mk rd rs1 rs2) s rd v ∧ (v = 0 ∨ v = 1) ∧
      (v = 1 ↔ ¬ NaN (unbox (s.readF rs1)) ∧ ¬ NaN (unbox (s.readF rs2)) ∧
        rel (extValue (unbox (s.readF rs1))) (extValue (unbox (s.readF rs2))))
  rule 0b010#3 .feqS (· = ·) ∧ rule 0b001#3 .fltS (· < ·) ∧ rule 0b000#3 .fleS (· ≤ ·) ∧
  (∀ w : Word32, bits w 0 7 = 0b1010011#7 → bits w 25 7 = 0b1010000#7 → bits w 12 3 ≠ 0b000#3 → bits w 12 3 ≠ 0b001#3 →
    bits w 12 3 ≠ 0b010#3 → Undefined w)

/-- R274: the class as a range of patterns; exactly one of bits 9:0. -/
def Obligations.ClassifyResults : Prop :=
  FpSub3Form 0b1110000#7 0b00000#5 0b001#3 .fclassS ∧ ∀ s rd rs1,
    let a := (unbox (s.readF rs1)).toNat
    PutsX (.fclassS rd rs1) s rd (
      if a = 0 then 0x10 else if a < 0x00800000 then 0x20 else if a < 0x7F800000 then 0x40
      else if a = 0x7F800000 then 0x80 else if a < 0x7FC00000 then 0x100 else if a < 0x80000000 then 0x200
      else if a = 0x80000000 then 0x8 else if a < 0x80800000 then 0x4 else if a < 0xFF800000 then 0x2
      else if a = 0xFF800000 then 0x1 else if a < 0xFFC00000 then 0x100 else 0x200)

/-- R266 to R269, R246: truncation toward zero, saturated, NaN to the greatest; every rm; 32-bit results
sign-extended. The saturation is the spec's decision D25. -/
def Obligations.FloatToIntegerResults : Prop :=
  (FpSubForm 0b1100000#7 0b00000#5 .fcvtWS ∧ ∀ s rd rs1, PutsX (.fcvtWS rd rs1) s rd
    (word32 (convert (-2 ^ 31) (2 ^ 31 - 1) (unbox (s.readF rs1))))) ∧
  (FpSubForm 0b1100000#7 0b00001#5 .fcvtWuS ∧ ∀ s rd rs1, PutsX (.fcvtWuS rd rs1) s rd
    (word32 (convert 0 (2 ^ 32 - 1) (unbox (s.readF rs1))))) ∧
  (FpSubForm 0b1100000#7 0b00010#5 .fcvtLS ∧ ∀ s rd rs1, PutsX (.fcvtLS rd rs1) s rd
    (BitVec.ofInt 64 (convert (-2 ^ 63) (2 ^ 63 - 1) (unbox (s.readF rs1))))) ∧
  (FpSubForm 0b1100000#7 0b00011#5 .fcvtLuS ∧ ∀ s rd rs1, PutsX (.fcvtLuS rd rs1) s rd
    (BitVec.ofInt 64 (convert 0 (2 ^ 64 - 1) (unbox (s.readF rs1)))))

/-- R270, R279: bit patterns move between the files, sign-extended or boxed; another funct3 or rs2 field under funct7
1111000 is a DecodeError. -/
def Obligations.FloatMoveResults : Prop :=
  (FpSub3Form 0b1110000#7 0b00000#5 0b000#3 .fmvXW ∧ ∀ s rd rs1,
    PutsX (.fmvXW rd rs1) s rd (sext64 ((s.readF rs1).extractLsb' 0 32))) ∧
  (FpSub3Form 0b1111000#7 0b00000#5 0b000#3 .fmvWX ∧ ∀ s rd rs1,
    PutsF (.fmvWX rd rs1) s rd ((s.readX rs1).extractLsb' 0 32)) ∧
  (∀ w : Word32, bits w 0 7 = 0b1010011#7 → bits w 25 7 = 0b1111000#7 →
    (bits w 12 3 ≠ 0b000#3 ∨ bits w 20 5 ≠ 0b00000#5) → Undefined w)

/-- R275 to R278, R244 (c), R344: under a static mode the source integer is converted by `f32OfInt`, whose rounding the
next statement says; rm 101, 110 and 111 raise UnsupportedRoundingMode with the instruction word. -/
def Obligations.IntegerToFloatResults : Prop :=
  let rule (sub : BitVec 5) (mk : Reg → Reg → RmField → Instr) (source : Word → Int) : Prop :=
    FpRmForm sub mk ∧
    (∀ s rd rs1 m, PutsF (mk rd rs1 (.static m)) s rd (f32OfInt m (source (s.readX rs1)))) ∧
    (∀ s rd rs1 rm, rm = .reserved5 ∨ rm = .reserved6 ∨ rm = .dyn →
      exec (mk rd rs1 rm) s = .fault (.unsupportedRoundingMode (encode (mk rd rs1 rm))))
  rule 0b00000#5 .fcvtSW signed32 ∧ rule 0b00001#5 .fcvtSWu (fun v => unsigned32 v) ∧
  rule 0b00010#5 .fcvtSL (fun v => v.toInt) ∧ rule 0b00011#5 .fcvtSLu (fun v => v.toNat)

/-- R247, R244 (c): the five static modes round every integer of at most 64 bits as named; 0 gives +0. -/
def Obligations.IntegerToFloatRoundsAsNamed : Prop :=
  ∀ (m : RoundMode) (n : Int), |n| ≤ 2 ^ 64 →
    RoundsTo m (n : ℝ) (f32OfInt m n) ∧ (n = 0 → f32OfInt m n = 0#32) ∧ (|n| ≤ 2 ^ 24 → value (f32OfInt m n) = n)

/-! ### Atomics -/

/-- R291, R292, R293, R303, R304: LR is a load, SC a store that always succeeds and writes 0 (the spec's decision
D27). -/
def Obligations.LoadReservedAndStoreConditional : Prop :=
  let lr (f3 : BitVec 3) (mk : Reg → Reg → Instr) (w : Width) : Prop :=
    LrForm f3 mk ∧ ∀ s rd rs1,
      (Inside s (s.readX rs1) w →
        PutsX (mk rd rs1) s rd (signedWindow w.bytes (windowValue s.mem (s.readX rs1).toNat w.bytes))) ∧
      (¬ Inside s (s.readX rs1) w → exec (mk rd rs1) s = .fault (.memoryFault (s.readX rs1) w))
  let sc (f3 : BitVec 3) (mk : Reg → Reg → Reg → Instr) (w : Width) : Prop :=
    AmoForm f3 0b00011#5 mk ∧ ∀ s rd rs1 rs2,
      (Inside s (s.readX rs1) w →
        StoresAndPuts (mk rd rs1 rs2) s (s.readX rs1).toNat w.bytes (s.readX rs2).toNat rd 0) ∧
      (¬ Inside s (s.readX rs1) w → exec (mk rd rs1 rs2) s = .fault (.memoryFault (s.readX rs1) w))
  lr 0b010#3 .lrW .word ∧ lr 0b011#3 .lrD .double ∧ sc 0b010#3 .scW .word ∧ sc 0b011#3 .scD .double

/-- R290, R294 to R302: read, compute on 32 bits, write back 4 bytes, return the original sign-extended; or
MemoryFault(x[rs1], 4) and nothing. -/
def Obligations.AtomicWordOperations : Prop :=
  let rule (f5 : BitVec 5) (mk : Reg → Reg → Reg → Instr) (op : Nat → Nat → Nat) : Prop :=
    AmoForm 0b010#3 f5 mk ∧ ∀ s rd rs1 rs2,
      (Inside s (s.readX rs1) .word →
        let old := windowValue s.mem (s.readX rs1).toNat 4
        StoresAndPuts (mk rd rs1 rs2) s (s.readX rs1).toNat 4 (op old (unsigned32 (s.readX rs2))) rd
          (signedWindow 4 old)) ∧
      (¬ Inside s (s.readX rs1) .word → exec (mk rd rs1 rs2) s = .fault (.memoryFault (s.readX rs1) .word))
  rule 0b00001#5 .amoswapW (fun _ src => src) ∧ rule 0b00000#5 .amoaddW (fun old src => (old + src) % 2 ^ 32) ∧
  rule 0b00100#5 .amoxorW (fun old src => old ^^^ src) ∧ rule 0b01100#5 .amoandW (fun old src => old &&& src) ∧
  rule 0b01000#5 .amoorW (fun old src => old ||| src) ∧
  rule 0b10000#5 .amominW (fun old src => if (old : Int).bmod (2 ^ 32) ≤ (src : Int).bmod (2 ^ 32) then old else src) ∧
  rule 0b10100#5 .amomaxW (fun old src => if (old : Int).bmod (2 ^ 32) ≥ (src : Int).bmod (2 ^ 32) then old else src) ∧
  rule 0b11000#5 .amominuW (fun old src => if old ≤ src then old else src) ∧
  rule 0b11100#5 .amomaxuW (fun old src => if old ≥ src then old else src)

/-- R290, R305 to R313: the same on 64 bits and 8 bytes; the original is returned whole. -/
def Obligations.AtomicDoublewordOperations : Prop :=
  let rule (f5 : BitVec 5) (mk : Reg → Reg → Reg → Instr) (op : Nat → Nat → Nat) : Prop :=
    AmoForm 0b011#3 f5 mk ∧ ∀ s rd rs1 rs2,
      (Inside s (s.readX rs1) .double →
        let old := windowValue s.mem (s.readX rs1).toNat 8
        StoresAndPuts (mk rd rs1 rs2) s (s.readX rs1).toNat 8 (op old (s.readX rs2).toNat) rd
          (BitVec.ofNat 64 old)) ∧
      (¬ Inside s (s.readX rs1) .double → exec (mk rd rs1 rs2) s = .fault (.memoryFault (s.readX rs1) .double))
  rule 0b00001#5 .amoswapD (fun _ src => src) ∧ rule 0b00000#5 .amoaddD (fun old src => (old + src) % 2 ^ 64) ∧
  rule 0b00100#5 .amoxorD (fun old src => old ^^^ src) ∧ rule 0b01100#5 .amoandD (fun old src => old &&& src) ∧
  rule 0b01000#5 .amoorD (fun old src => old ||| src) ∧
  rule 0b10000#5 .amominD (fun old src => if (old : Int).bmod (2 ^ 64) ≤ (src : Int).bmod (2 ^ 64) then old else src) ∧
  rule 0b10100#5 .amomaxD (fun old src => if (old : Int).bmod (2 ^ 64) ≥ (src : Int).bmod (2 ^ 64) then old else src) ∧
  rule 0b11000#5 .amominuD (fun old src => if old ≤ src then old else src) ∧
  rule 0b11100#5 .amomaxuD (fun old src => if old ≥ src then old else src)

/-! ### CSR access and fences -/

/-- R321 to R323: the CSR gets its new value (for CSRRS and CSRRC only when the field rs1 is not 0, which no value
shows), rd the old one, both from the registers as they were. -/
def Obligations.CsrRegisterForms : Prop :=
  (CsrForm 0b001#3 .csrrw ∧ ∀ s rd rs1 a,
    PutsCsr (.csrrw rd rs1 a) s a (s.readX rs1) rd (s.readCsr a)) ∧
  (CsrForm 0b010#3 .csrrs ∧ ∀ s rd rs1 a,
    PutsCsr (.csrrs rd rs1 a) s a (if rs1 ≠ 0 then s.readCsr a ||| s.readX rs1 else s.readCsr a) rd (s.readCsr a)) ∧
  (CsrForm 0b011#3 .csrrc ∧ ∀ s rd rs1 a,
    PutsCsr (.csrrc rd rs1 a) s a (if rs1 ≠ 0 then s.readCsr a &&& ~~~(s.readX rs1) else s.readCsr a) rd (s.readCsr a))

/-- R324 to R326: as above with the 5-bit literal. The suppression for uimm = 0 is the spec's decision D33. -/
def Obligations.CsrImmediateForms : Prop :=
  (CsrImmForm 0b101#3 .csrrwi ∧ ∀ s rd uimm a,
    PutsCsr (.csrrwi rd uimm a) s a (zext64 uimm) rd (s.readCsr a)) ∧
  (CsrImmForm 0b110#3 .csrrsi ∧ ∀ s rd uimm a,
    PutsCsr (.csrrsi rd uimm a) s a (if uimm ≠ 0 then s.readCsr a ||| zext64 uimm else s.readCsr a) rd (s.readCsr a)) ∧
  (CsrImmForm 0b111#3 .csrrci ∧ ∀ s rd uimm a,
    PutsCsr (.csrrci rd uimm a) s a (if uimm ≠ 0 then s.readCsr a &&& ~~~(zext64 uimm) else s.readCsr a) rd (s.readCsr a))

/-- R327, R328: no state change, whatever the ignored fields hold. -/
def Obligations.FencesChangeNothing : Prop :=
  (∀ w : Word32, bits w 0 7 = 0b0001111#7 → bits w 12 3 = 0b000#3 → decode w = .ok .fence) ∧
  (∀ w : Word32, bits w 0 7 = 0b0001111#7 → bits w 12 3 = 0b001#3 → decode w = .ok .fenceI) ∧
  ∀ s : State, exec .fence s = .next s ∧ exec .fenceI s = .next s
end

