-- ==== Sys2Proof/Laws/Arith.lean ====
section
/-! SUPPORT. The arithmetic of the meanings in exact integers: shifts as products and quotients by powers of two, the low
word, word results, halves of products, quotients and remainders. -/

namespace Sys2Proof.Machine

theorem ofInt_sub {n : Nat} (a b : Int) : BitVec.ofInt n (a - b) = BitVec.ofInt n a - BitVec.ofInt n b := by
  rw [Int.sub_eq_add_neg, BitVec.ofInt_add, BitVec.ofInt_neg, BitVec.sub_eq_add_neg]

theorem sshiftRight_ofInt {n : Nat} (x : BitVec n) (k : Nat) : x.sshiftRight k = BitVec.ofInt n (x.toInt / 2 ^ k) := by
  have h : x.toInt / 2 ^ k = x.toInt >>> k := by rw [Int.shiftRight_eq_div_pow]; norm_cast
  rw [h, ← BitVec.toInt_sshiftRight, BitVec.ofInt_toInt]

theorem shiftLeft_ofNat {n : Nat} (x : BitVec n) (k : Nat) : x <<< k = BitVec.ofNat n (x.toNat * 2 ^ k) := by
  apply BitVec.eq_of_toNat_eq; simp [Nat.shiftLeft_eq]

theorem ushiftRight_ofNat {n : Nat} (x : BitVec n) (k : Nat) : x >>> k = BitVec.ofNat n (x.toNat / 2 ^ k) := by
  apply BitVec.eq_of_toNat_eq
  rw [BitVec.toNat_ushiftRight, BitVec.toNat_ofNat, Nat.shiftRight_eq_div_pow]
  exact (Nat.mod_eq_of_lt (Nat.lt_of_le_of_lt (Nat.div_le_self _ _) x.isLt)).symm

theorem regShamt6_eq (v : Word) : regShamt6 v = v.toNat % 64 := by simp [regShamt6]
theorem regShamt5_eq (v : Word) : regShamt5 v = v.toNat % 32 := by simp [regShamt5]

/-! ### The low word and word results (R131) -/

theorem low32_toNat (v : Word) : (low32 v).toNat = v.toNat % 2 ^ 32 := by simp [low32]

theorem low32_toInt (v : Word) : (low32 v).toInt = (v.toNat : Int).bmod (2 ^ 32) := by
  rw [BitVec.toInt_eq_toNat_bmod, low32_toNat]; exact Int.emod_bmod (v.toNat : Int) 4294967296

theorem low32_ofNat (v : Word) : low32 v = BitVec.ofNat 32 (v.toNat % 2 ^ 32) := by
  rw [← low32_toNat, BitVec.ofNat_toNat, BitVec.setWidth_eq]

/-- A word result is the exact integer reduced to 32 bits, signed. -/
theorem sext64_ofInt (z : Int) : sext64 (BitVec.ofInt 32 z) = BitVec.ofInt 64 (z.bmod (2 ^ 32)) := by
  rw [← BitVec.toInt_ofInt]; rfl

theorem upperImm_ofInt (imm : Word) : upperImm imm = BitVec.ofInt 64 (imm.toInt * 2 ^ 12) := by
  rw [BitVec.ofInt_mul, BitVec.ofInt_toInt, upperImm, BitVec.shiftLeft_eq_mul_twoPow]; rfl

/-- Clearing bit 0 (R182). -/
theorem clear_bit0 (v : Word) : v &&& 0xFFFFFFFFFFFFFFFE#64 = BitVec.ofNat 64 (v.toNat / 2 * 2) := by
  have h : v &&& 0xFFFFFFFFFFFFFFFE#64 = (v >>> 1) <<< 1 := by
    apply BitVec.eq_of_getLsbD_eq
    intro i hi
    simp only [BitVec.getLsbD_and, BitVec.getLsbD_shiftLeft, BitVec.getLsbD_ushiftRight, hi, decide_true, Bool.true_and]
    cases i with
    | zero => simp
    | succ i =>
      have hb : ∀ i < 63, (0xFFFFFFFFFFFFFFFE#64).getLsbD (i + 1) = true := by decide
      rw [hb i (by omega)]
      simp [Nat.add_comm]
  rw [h, shiftLeft_ofNat, ushiftRight_ofNat, BitVec.toNat_ofNat, pow_one,
    Nat.mod_eq_of_lt (Nat.lt_of_le_of_lt (Nat.div_le_self _ _) v.isLt)]

/-! ### Multiplication and division (R221 to R234) -/

/-- Bits 127:64 of the exact product are its floor quotient by 2^64. -/
theorem mulHigh_eq (a b : Int) : mulHigh a b = BitVec.ofInt 64 (a * b / 2 ^ 64) := by
  unfold mulHigh
  generalize a * b = z
  apply BitVec.eq_of_toNat_eq
  rw [BitVec.extractLsb'_toNat, BitVec.toNat_ofInt, BitVec.toNat_ofInt, Nat.shiftRight_eq_div_pow]
  omega

/-- A remainder computed as `a - b * trunc(a / b)` is the truncating remainder. -/
theorem sub_mul_tdiv (a b : Int) : a - b * a.tdiv b = a.tmod b := by
  have := Int.mul_tdiv_add_tmod a b
  omega

theorem intMin_iff {L : Nat} (hL : 0 < L) (x : BitVec L) : x = BitVec.intMin L ↔ x.toInt = -2 ^ (L - 1) := by
  constructor
  · rintro rfl; rw [BitVec.toInt_intMin_of_pos hL]
  · intro h; apply BitVec.eq_of_toInt_eq; rw [h, BitVec.toInt_intMin_of_pos hL]

theorem allOnes_iff {L : Nat} (hL : 0 < L) (x : BitVec L) : x = BitVec.allOnes L ↔ x.toInt = -1 := by
  constructor
  · rintro rfl; rw [BitVec.toInt_allOnes]; simp [hL]
  · intro h; apply BitVec.eq_of_toInt_eq; rw [h, BitVec.toInt_allOnes]; simp [hL]

theorem zero_iff {L : Nat} (x : BitVec L) : x = 0 ↔ x.toInt = 0 := by
  constructor
  · rintro rfl; simp
  · intro h; apply BitVec.eq_of_toInt_eq; simpa using h

end Sys2Proof.Machine
end

