-- ==== Sys2Proof/Laws/Encoding.lean ====
section
/-! SUPPORT. Laws of the decoder and the encoder: the rows are disjoint, a mask is the fields it covers, and each field of
each format reads back what the encoder placed. -/

namespace Sys2Proof

/-! ### The table -/

/-- No word matches two rows (R114). -/
theorem rows_disjoint : rows.Pairwise (fun a b => a.mask &&& b.mask &&& (a.pat ^^^ b.pat) ≠ 0#32) := by
  decide +kernel

theorem find_of_disjoint {l : List Row} {r : Row} {w : Word32}
    (hl : l.Pairwise (fun a b => a.mask &&& b.mask &&& (a.pat ^^^ b.pat) ≠ 0#32)) (hr : r ∈ l)
    (ha : r.accepts w = true) : l.find? (fun r => r.accepts w) = some r := by
  induction l with
  | nil => cases hr
  | cons q l ih =>
    rw [List.pairwise_cons] at hl
    rcases List.mem_cons.1 hr with rfl | hr'
    · simp [List.find?, ha]
    · have hq : q.accepts w = false := by
        by_contra hq
        refine hl.1 r hr' ?_
        have h1 : w &&& q.mask = q.pat := by simpa [Row.accepts] using hq
        have h2 : w &&& r.mask = r.pat := by simpa [Row.accepts] using ha
        rw [← h1, ← h2]
        apply BitVec.eq_of_getLsbD_eq
        intro i hi
        simp only [BitVec.getLsbD_and, BitVec.getLsbD_xor, BitVec.getLsbD_zero]
        cases q.mask.getLsbD i <;> cases r.mask.getLsbD i <;> simp
      simp [List.find?, hq, ih hl.2 hr']

/-- R114: the row that accepts a word makes its instruction. -/
theorem decode_of_row {r : Row} {w : Word32} (hr : r ∈ rows) (ha : r.accepts w = true) :
    decode w = .ok (r.build w) := by
  simp [decode, find_of_disjoint rows_disjoint hr ha]

/-- A word that decodes was accepted by a row that made its instruction. -/
theorem row_of_decode {w : Word32} {i : Instr} (h : decode w = .ok i) :
    ∃ r ∈ rows, r.accepts w = true ∧ r.build w = i := by
  unfold decode at h
  split at h
  · rename_i r hfind
    exact ⟨r, List.mem_of_find?_eq_some hfind, by simpa using List.find?_some hfind, by simpa using h⟩
  · split at h <;> cases h

theorem decode_error_of_no_row {w : Word32} (h : ∀ r ∈ rows, r.accepts w = false) :
    ∃ e, decode w = .error e := by
  have : rows.find? (fun r => r.accepts w) = none := List.find?_eq_none.2 (fun r hr => by simp [h r hr])
  unfold decode; rw [this]; dsimp only; split <;> exact ⟨_, rfl⟩

theorem mem_rowsControl {r : Row} (h : r ∈ rowsControl) : r ∈ rows := by
  simp only [rows, List.mem_append]; tauto

theorem mem_rowsLoadStore {r : Row} (h : r ∈ rowsLoadStore) : r ∈ rows := by
  simp only [rows, List.mem_append]; tauto

theorem mem_rowsOpImm {r : Row} (h : r ∈ rowsOpImm) : r ∈ rows := by
  simp only [rows, List.mem_append]; tauto

theorem mem_rowsOp {r : Row} (h : r ∈ rowsOp) : r ∈ rows := by
  simp only [rows, List.mem_append]; tauto

theorem mem_rowsMulDiv {r : Row} (h : r ∈ rowsMulDiv) : r ∈ rows := by
  simp only [rows, List.mem_append]; tauto

theorem mem_rowsCsrFence {r : Row} (h : r ∈ rowsCsrFence) : r ∈ rows := by
  simp only [rows, List.mem_append]; tauto

theorem mem_rowsAtomic {r : Row} (h : r ∈ rowsAtomic) : r ∈ rows := by
  simp only [rows, List.mem_append]; tauto

theorem mem_rowsFloat {r : Row} (h : r ∈ rowsFloat) : r ∈ rows := by
  simp only [rows, List.mem_append]; tauto

/-! ### A mask is the fields it covers -/

theorem mask_0000007F (w : Word32) : w &&& 0x0000007F#32 =
    place 0 (w.extractLsb' 0 7) := by
  apply BitVec.eq_of_getLsbD_eq
  intro i hi
  simp only [place, BitVec.getLsbD_and, BitVec.getLsbD_shiftLeft, BitVec.getLsbD_setWidth,
    BitVec.getLsbD_extractLsb']
  interval_cases i <;> simp

theorem mask_0000707F (w : Word32) : w &&& 0x0000707F#32 =
    place 0 (w.extractLsb' 0 7) ||| place 12 (w.extractLsb' 12 3) := by
  apply BitVec.eq_of_getLsbD_eq
  intro i hi
  simp only [BitVec.getLsbD_or, place, BitVec.getLsbD_and, BitVec.getLsbD_shiftLeft, BitVec.getLsbD_setWidth,
    BitVec.getLsbD_extractLsb']
  interval_cases i <;> simp

theorem mask_FC00707F (w : Word32) : w &&& 0xFC00707F#32 =
    place 0 (w.extractLsb' 0 7) ||| place 12 (w.extractLsb' 12 3) ||| place 26 (w.extractLsb' 26 6) := by
  apply BitVec.eq_of_getLsbD_eq
  intro i hi
  simp only [BitVec.getLsbD_or, place, BitVec.getLsbD_and, BitVec.getLsbD_shiftLeft, BitVec.getLsbD_setWidth,
    BitVec.getLsbD_extractLsb']
  interval_cases i <;> simp

theorem mask_FE00707F (w : Word32) : w &&& 0xFE00707F#32 =
    place 0 (w.extractLsb' 0 7) ||| place 12 (w.extractLsb' 12 3) ||| place 25 (w.extractLsb' 25 7) := by
  apply BitVec.eq_of_getLsbD_eq
  intro i hi
  simp only [BitVec.getLsbD_or, place, BitVec.getLsbD_and, BitVec.getLsbD_shiftLeft, BitVec.getLsbD_setWidth,
    BitVec.getLsbD_extractLsb']
  interval_cases i <;> simp

theorem mask_FE00007F (w : Word32) : w &&& 0xFE00007F#32 =
    place 0 (w.extractLsb' 0 7) ||| place 25 (w.extractLsb' 25 7) := by
  apply BitVec.eq_of_getLsbD_eq
  intro i hi
  simp only [BitVec.getLsbD_or, place, BitVec.getLsbD_and, BitVec.getLsbD_shiftLeft, BitVec.getLsbD_setWidth,
    BitVec.getLsbD_extractLsb']
  interval_cases i <;> simp

theorem mask_FFF0007F (w : Word32) : w &&& 0xFFF0007F#32 =
    place 0 (w.extractLsb' 0 7) ||| place 20 (w.extractLsb' 20 5) ||| place 25 (w.extractLsb' 25 7) := by
  apply BitVec.eq_of_getLsbD_eq
  intro i hi
  simp only [BitVec.getLsbD_or, place, BitVec.getLsbD_and, BitVec.getLsbD_shiftLeft, BitVec.getLsbD_setWidth,
    BitVec.getLsbD_extractLsb']
  interval_cases i <;> simp

theorem mask_FFF0707F (w : Word32) : w &&& 0xFFF0707F#32 =
    place 0 (w.extractLsb' 0 7) ||| place 12 (w.extractLsb' 12 3) ||| place 20 (w.extractLsb' 20 5) ||| place 25 (w.extractLsb' 25 7) := by
  apply BitVec.eq_of_getLsbD_eq
  intro i hi
  simp only [BitVec.getLsbD_or, place, BitVec.getLsbD_and, BitVec.getLsbD_shiftLeft, BitVec.getLsbD_setWidth,
    BitVec.getLsbD_extractLsb']
  interval_cases i <;> simp

theorem mask_F800707F (w : Word32) : w &&& 0xF800707F#32 =
    place 0 (w.extractLsb' 0 7) ||| place 12 (w.extractLsb' 12 3) ||| place 27 (w.extractLsb' 27 5) := by
  apply BitVec.eq_of_getLsbD_eq
  intro i hi
  simp only [BitVec.getLsbD_or, place, BitVec.getLsbD_and, BitVec.getLsbD_shiftLeft, BitVec.getLsbD_setWidth,
    BitVec.getLsbD_extractLsb']
  interval_cases i <;> simp

theorem mask_F9F0707F (w : Word32) : w &&& 0xF9F0707F#32 =
    place 0 (w.extractLsb' 0 7) ||| place 12 (w.extractLsb' 12 3) ||| place 20 (w.extractLsb' 20 5) ||| place 27 (w.extractLsb' 27 5) := by
  apply BitVec.eq_of_getLsbD_eq
  intro i hi
  simp only [BitVec.getLsbD_or, place, BitVec.getLsbD_and, BitVec.getLsbD_shiftLeft, BitVec.getLsbD_setWidth,
    BitVec.getLsbD_extractLsb']
  interval_cases i <;> simp

theorem mask_0600007F (w : Word32) : w &&& 0x0600007F#32 =
    place 0 (w.extractLsb' 0 7) ||| place 25 (w.extractLsb' 25 2) := by
  apply BitVec.eq_of_getLsbD_eq
  intro i hi
  simp only [BitVec.getLsbD_or, place, BitVec.getLsbD_and, BitVec.getLsbD_shiftLeft, BitVec.getLsbD_setWidth,
    BitVec.getLsbD_extractLsb']
  interval_cases i <;> simp

/-! ### Each field of each format reads back what was placed -/

@[simp] theorem encR_f7 (f7 : BitVec 7) (rs2 rs1 : BitVec 5) (f3 : BitVec 3) (rd : BitVec 5) (op : BitVec 7) :
    (encR f7 rs2 rs1 f3 rd op).extractLsb' 25 7 = f7 := by
  apply BitVec.eq_of_getLsbD_eq
  intro i hi
  simp only [encR, place, BitVec.getLsbD_or, BitVec.getLsbD_shiftLeft, BitVec.getLsbD_setWidth,
    BitVec.getLsbD_extractLsb']
  interval_cases i <;> simp

@[simp] theorem encR_rs2 (f7 : BitVec 7) (rs2 rs1 : BitVec 5) (f3 : BitVec 3) (rd : BitVec 5) (op : BitVec 7) :
    (encR f7 rs2 rs1 f3 rd op).extractLsb' 20 5 = rs2 := by
  apply BitVec.eq_of_getLsbD_eq
  intro i hi
  simp only [encR, place, BitVec.getLsbD_or, BitVec.getLsbD_shiftLeft, BitVec.getLsbD_setWidth,
    BitVec.getLsbD_extractLsb']
  interval_cases i <;> simp

@[simp] theorem encR_rs1 (f7 : BitVec 7) (rs2 rs1 : BitVec 5) (f3 : BitVec 3) (rd : BitVec 5) (op : BitVec 7) :
    (encR f7 rs2 rs1 f3 rd op).extractLsb' 15 5 = rs1 := by
  apply BitVec.eq_of_getLsbD_eq
  intro i hi
  simp only [encR, place, BitVec.getLsbD_or, BitVec.getLsbD_shiftLeft, BitVec.getLsbD_setWidth,
    BitVec.getLsbD_extractLsb']
  interval_cases i <;> simp

@[simp] theorem encR_f3 (f7 : BitVec 7) (rs2 rs1 : BitVec 5) (f3 : BitVec 3) (rd : BitVec 5) (op : BitVec 7) :
    (encR f7 rs2 rs1 f3 rd op).extractLsb' 12 3 = f3 := by
  apply BitVec.eq_of_getLsbD_eq
  intro i hi
  simp only [encR, place, BitVec.getLsbD_or, BitVec.getLsbD_shiftLeft, BitVec.getLsbD_setWidth,
    BitVec.getLsbD_extractLsb']
  interval_cases i <;> simp

@[simp] theorem encR_rd (f7 : BitVec 7) (rs2 rs1 : BitVec 5) (f3 : BitVec 3) (rd : BitVec 5) (op : BitVec 7) :
    (encR f7 rs2 rs1 f3 rd op).extractLsb' 7 5 = rd := by
  apply BitVec.eq_of_getLsbD_eq
  intro i hi
  simp only [encR, place, BitVec.getLsbD_or, BitVec.getLsbD_shiftLeft, BitVec.getLsbD_setWidth,
    BitVec.getLsbD_extractLsb']
  interval_cases i <;> simp

@[simp] theorem encR_op (f7 : BitVec 7) (rs2 rs1 : BitVec 5) (f3 : BitVec 3) (rd : BitVec 5) (op : BitVec 7) :
    (encR f7 rs2 rs1 f3 rd op).extractLsb' 0 7 = op := by
  apply BitVec.eq_of_getLsbD_eq
  intro i hi
  simp only [encR, place, BitVec.getLsbD_or, BitVec.getLsbD_shiftLeft, BitVec.getLsbD_setWidth,
    BitVec.getLsbD_extractLsb']
  interval_cases i <;> simp

@[simp] theorem encR_f5 (f7 : BitVec 7) (rs2 rs1 : BitVec 5) (f3 : BitVec 3) (rd : BitVec 5) (op : BitVec 7) :
    (encR f7 rs2 rs1 f3 rd op).extractLsb' 27 5 = f7.extractLsb' 2 5 := by
  apply BitVec.eq_of_getLsbD_eq
  intro i hi
  simp only [encR, place, BitVec.getLsbD_or, BitVec.getLsbD_shiftLeft, BitVec.getLsbD_setWidth,
    BitVec.getLsbD_extractLsb']
  interval_cases i <;> simp

@[simp] theorem encR4_rs3 (rs3 : BitVec 5) (f2 : BitVec 2) (rs2 rs1 : BitVec 5) (rm : BitVec 3) (rd : BitVec 5) (op : BitVec 7) :
    (encR4 rs3 f2 rs2 rs1 rm rd op).extractLsb' 27 5 = rs3 := by
  apply BitVec.eq_of_getLsbD_eq
  intro i hi
  simp only [encR4, place, BitVec.getLsbD_or, BitVec.getLsbD_shiftLeft, BitVec.getLsbD_setWidth,
    BitVec.getLsbD_extractLsb']
  interval_cases i <;> simp

@[simp] theorem encR4_f2 (rs3 : BitVec 5) (f2 : BitVec 2) (rs2 rs1 : BitVec 5) (rm : BitVec 3) (rd : BitVec 5) (op : BitVec 7) :
    (encR4 rs3 f2 rs2 rs1 rm rd op).extractLsb' 25 2 = f2 := by
  apply BitVec.eq_of_getLsbD_eq
  intro i hi
  simp only [encR4, place, BitVec.getLsbD_or, BitVec.getLsbD_shiftLeft, BitVec.getLsbD_setWidth,
    BitVec.getLsbD_extractLsb']
  interval_cases i <;> simp

@[simp] theorem encR4_rs2 (rs3 : BitVec 5) (f2 : BitVec 2) (rs2 rs1 : BitVec 5) (rm : BitVec 3) (rd : BitVec 5) (op : BitVec 7) :
    (encR4 rs3 f2 rs2 rs1 rm rd op).extractLsb' 20 5 = rs2 := by
  apply BitVec.eq_of_getLsbD_eq
  intro i hi
  simp only [encR4, place, BitVec.getLsbD_or, BitVec.getLsbD_shiftLeft, BitVec.getLsbD_setWidth,
    BitVec.getLsbD_extractLsb']
  interval_cases i <;> simp

@[simp] theorem encR4_rs1 (rs3 : BitVec 5) (f2 : BitVec 2) (rs2 rs1 : BitVec 5) (rm : BitVec 3) (rd : BitVec 5) (op : BitVec 7) :
    (encR4 rs3 f2 rs2 rs1 rm rd op).extractLsb' 15 5 = rs1 := by
  apply BitVec.eq_of_getLsbD_eq
  intro i hi
  simp only [encR4, place, BitVec.getLsbD_or, BitVec.getLsbD_shiftLeft, BitVec.getLsbD_setWidth,
    BitVec.getLsbD_extractLsb']
  interval_cases i <;> simp

@[simp] theorem encR4_rm (rs3 : BitVec 5) (f2 : BitVec 2) (rs2 rs1 : BitVec 5) (rm : BitVec 3) (rd : BitVec 5) (op : BitVec 7) :
    (encR4 rs3 f2 rs2 rs1 rm rd op).extractLsb' 12 3 = rm := by
  apply BitVec.eq_of_getLsbD_eq
  intro i hi
  simp only [encR4, place, BitVec.getLsbD_or, BitVec.getLsbD_shiftLeft, BitVec.getLsbD_setWidth,
    BitVec.getLsbD_extractLsb']
  interval_cases i <;> simp

@[simp] theorem encR4_rd (rs3 : BitVec 5) (f2 : BitVec 2) (rs2 rs1 : BitVec 5) (rm : BitVec 3) (rd : BitVec 5) (op : BitVec 7) :
    (encR4 rs3 f2 rs2 rs1 rm rd op).extractLsb' 7 5 = rd := by
  apply BitVec.eq_of_getLsbD_eq
  intro i hi
  simp only [encR4, place, BitVec.getLsbD_or, BitVec.getLsbD_shiftLeft, BitVec.getLsbD_setWidth,
    BitVec.getLsbD_extractLsb']
  interval_cases i <;> simp

@[simp] theorem encR4_op (rs3 : BitVec 5) (f2 : BitVec 2) (rs2 rs1 : BitVec 5) (rm : BitVec 3) (rd : BitVec 5) (op : BitVec 7) :
    (encR4 rs3 f2 rs2 rs1 rm rd op).extractLsb' 0 7 = op := by
  apply BitVec.eq_of_getLsbD_eq
  intro i hi
  simp only [encR4, place, BitVec.getLsbD_or, BitVec.getLsbD_shiftLeft, BitVec.getLsbD_setWidth,
    BitVec.getLsbD_extractLsb']
  interval_cases i <;> simp

@[simp] theorem encI_lo6 (imm : BitVec 12) (rs1 : BitVec 5) (f3 : BitVec 3) (rd : BitVec 5) (op : BitVec 7) :
    (encI imm rs1 f3 rd op).extractLsb' 20 6 = imm.extractLsb' 0 6 := by
  apply BitVec.eq_of_getLsbD_eq
  intro i hi
  simp only [encI, place, BitVec.getLsbD_or, BitVec.getLsbD_shiftLeft, BitVec.getLsbD_setWidth,
    BitVec.getLsbD_extractLsb']
  interval_cases i <;> simp

@[simp] theorem encI_hi6 (imm : BitVec 12) (rs1 : BitVec 5) (f3 : BitVec 3) (rd : BitVec 5) (op : BitVec 7) :
    (encI imm rs1 f3 rd op).extractLsb' 26 6 = imm.extractLsb' 6 6 := by
  apply BitVec.eq_of_getLsbD_eq
  intro i hi
  simp only [encI, place, BitVec.getLsbD_or, BitVec.getLsbD_shiftLeft, BitVec.getLsbD_setWidth,
    BitVec.getLsbD_extractLsb']
  interval_cases i <;> simp

@[simp] theorem encI_imm (imm : BitVec 12) (rs1 : BitVec 5) (f3 : BitVec 3) (rd : BitVec 5) (op : BitVec 7) :
    (encI imm rs1 f3 rd op).extractLsb' 20 12 = imm := by
  apply BitVec.eq_of_getLsbD_eq
  intro i hi
  simp only [encI, place, BitVec.getLsbD_or, BitVec.getLsbD_shiftLeft, BitVec.getLsbD_setWidth,
    BitVec.getLsbD_extractLsb']
  interval_cases i <;> simp

@[simp] theorem encI_rs1 (imm : BitVec 12) (rs1 : BitVec 5) (f3 : BitVec 3) (rd : BitVec 5) (op : BitVec 7) :
    (encI imm rs1 f3 rd op).extractLsb' 15 5 = rs1 := by
  apply BitVec.eq_of_getLsbD_eq
  intro i hi
  simp only [encI, place, BitVec.getLsbD_or, BitVec.getLsbD_shiftLeft, BitVec.getLsbD_setWidth,
    BitVec.getLsbD_extractLsb']
  interval_cases i <;> simp

@[simp] theorem encI_f3 (imm : BitVec 12) (rs1 : BitVec 5) (f3 : BitVec 3) (rd : BitVec 5) (op : BitVec 7) :
    (encI imm rs1 f3 rd op).extractLsb' 12 3 = f3 := by
  apply BitVec.eq_of_getLsbD_eq
  intro i hi
  simp only [encI, place, BitVec.getLsbD_or, BitVec.getLsbD_shiftLeft, BitVec.getLsbD_setWidth,
    BitVec.getLsbD_extractLsb']
  interval_cases i <;> simp

@[simp] theorem encI_rd (imm : BitVec 12) (rs1 : BitVec 5) (f3 : BitVec 3) (rd : BitVec 5) (op : BitVec 7) :
    (encI imm rs1 f3 rd op).extractLsb' 7 5 = rd := by
  apply BitVec.eq_of_getLsbD_eq
  intro i hi
  simp only [encI, place, BitVec.getLsbD_or, BitVec.getLsbD_shiftLeft, BitVec.getLsbD_setWidth,
    BitVec.getLsbD_extractLsb']
  interval_cases i <;> simp

@[simp] theorem encI_op (imm : BitVec 12) (rs1 : BitVec 5) (f3 : BitVec 3) (rd : BitVec 5) (op : BitVec 7) :
    (encI imm rs1 f3 rd op).extractLsb' 0 7 = op := by
  apply BitVec.eq_of_getLsbD_eq
  intro i hi
  simp only [encI, place, BitVec.getLsbD_or, BitVec.getLsbD_shiftLeft, BitVec.getLsbD_setWidth,
    BitVec.getLsbD_extractLsb']
  interval_cases i <;> simp

@[simp] theorem encS_rs2 (imm : BitVec 12) (rs2 rs1 : BitVec 5) (f3 : BitVec 3) (op : BitVec 7) :
    (encS imm rs2 rs1 f3 op).extractLsb' 20 5 = rs2 := by
  apply BitVec.eq_of_getLsbD_eq
  intro i hi
  simp only [encS, place, BitVec.getLsbD_or, BitVec.getLsbD_shiftLeft, BitVec.getLsbD_setWidth,
    BitVec.getLsbD_extractLsb']
  interval_cases i <;> simp

@[simp] theorem encS_rs1 (imm : BitVec 12) (rs2 rs1 : BitVec 5) (f3 : BitVec 3) (op : BitVec 7) :
    (encS imm rs2 rs1 f3 op).extractLsb' 15 5 = rs1 := by
  apply BitVec.eq_of_getLsbD_eq
  intro i hi
  simp only [encS, place, BitVec.getLsbD_or, BitVec.getLsbD_shiftLeft, BitVec.getLsbD_setWidth,
    BitVec.getLsbD_extractLsb']
  interval_cases i <;> simp

@[simp] theorem encS_f3 (imm : BitVec 12) (rs2 rs1 : BitVec 5) (f3 : BitVec 3) (op : BitVec 7) :
    (encS imm rs2 rs1 f3 op).extractLsb' 12 3 = f3 := by
  apply BitVec.eq_of_getLsbD_eq
  intro i hi
  simp only [encS, place, BitVec.getLsbD_or, BitVec.getLsbD_shiftLeft, BitVec.getLsbD_setWidth,
    BitVec.getLsbD_extractLsb']
  interval_cases i <;> simp

@[simp] theorem encS_op (imm : BitVec 12) (rs2 rs1 : BitVec 5) (f3 : BitVec 3) (op : BitVec 7) :
    (encS imm rs2 rs1 f3 op).extractLsb' 0 7 = op := by
  apply BitVec.eq_of_getLsbD_eq
  intro i hi
  simp only [encS, place, BitVec.getLsbD_or, BitVec.getLsbD_shiftLeft, BitVec.getLsbD_setWidth,
    BitVec.getLsbD_extractLsb']
  interval_cases i <;> simp

@[simp] theorem encS_hi (imm : BitVec 12) (rs2 rs1 : BitVec 5) (f3 : BitVec 3) (op : BitVec 7) :
    (encS imm rs2 rs1 f3 op).extractLsb' 25 7 = imm.extractLsb' 5 7 := by
  apply BitVec.eq_of_getLsbD_eq
  intro i hi
  simp only [encS, place, BitVec.getLsbD_or, BitVec.getLsbD_shiftLeft, BitVec.getLsbD_setWidth,
    BitVec.getLsbD_extractLsb']
  interval_cases i <;> simp

@[simp] theorem encS_lo (imm : BitVec 12) (rs2 rs1 : BitVec 5) (f3 : BitVec 3) (op : BitVec 7) :
    (encS imm rs2 rs1 f3 op).extractLsb' 7 5 = imm.extractLsb' 0 5 := by
  apply BitVec.eq_of_getLsbD_eq
  intro i hi
  simp only [encS, place, BitVec.getLsbD_or, BitVec.getLsbD_shiftLeft, BitVec.getLsbD_setWidth,
    BitVec.getLsbD_extractLsb']
  interval_cases i <;> simp

@[simp] theorem encB_rs2 (k : BitVec 12) (rs2 rs1 : BitVec 5) (f3 : BitVec 3) (op : BitVec 7) :
    (encB k rs2 rs1 f3 op).extractLsb' 20 5 = rs2 := by
  apply BitVec.eq_of_getLsbD_eq
  intro i hi
  simp only [encB, place, BitVec.getLsbD_or, BitVec.getLsbD_shiftLeft, BitVec.getLsbD_setWidth,
    BitVec.getLsbD_extractLsb']
  interval_cases i <;> simp

@[simp] theorem encB_rs1 (k : BitVec 12) (rs2 rs1 : BitVec 5) (f3 : BitVec 3) (op : BitVec 7) :
    (encB k rs2 rs1 f3 op).extractLsb' 15 5 = rs1 := by
  apply BitVec.eq_of_getLsbD_eq
  intro i hi
  simp only [encB, place, BitVec.getLsbD_or, BitVec.getLsbD_shiftLeft, BitVec.getLsbD_setWidth,
    BitVec.getLsbD_extractLsb']
  interval_cases i <;> simp

@[simp] theorem encB_f3 (k : BitVec 12) (rs2 rs1 : BitVec 5) (f3 : BitVec 3) (op : BitVec 7) :
    (encB k rs2 rs1 f3 op).extractLsb' 12 3 = f3 := by
  apply BitVec.eq_of_getLsbD_eq
  intro i hi
  simp only [encB, place, BitVec.getLsbD_or, BitVec.getLsbD_shiftLeft, BitVec.getLsbD_setWidth,
    BitVec.getLsbD_extractLsb']
  interval_cases i <;> simp

@[simp] theorem encB_op (k : BitVec 12) (rs2 rs1 : BitVec 5) (f3 : BitVec 3) (op : BitVec 7) :
    (encB k rs2 rs1 f3 op).extractLsb' 0 7 = op := by
  apply BitVec.eq_of_getLsbD_eq
  intro i hi
  simp only [encB, place, BitVec.getLsbD_or, BitVec.getLsbD_shiftLeft, BitVec.getLsbD_setWidth,
    BitVec.getLsbD_extractLsb']
  interval_cases i <;> simp

@[simp] theorem encB_b31 (k : BitVec 12) (rs2 rs1 : BitVec 5) (f3 : BitVec 3) (op : BitVec 7) :
    (encB k rs2 rs1 f3 op).extractLsb' 31 1 = k.extractLsb' 11 1 := by
  apply BitVec.eq_of_getLsbD_eq
  intro i hi
  simp only [encB, place, BitVec.getLsbD_or, BitVec.getLsbD_shiftLeft, BitVec.getLsbD_setWidth,
    BitVec.getLsbD_extractLsb']
  interval_cases i ; simp

@[simp] theorem encB_b7 (k : BitVec 12) (rs2 rs1 : BitVec 5) (f3 : BitVec 3) (op : BitVec 7) :
    (encB k rs2 rs1 f3 op).extractLsb' 7 1 = k.extractLsb' 10 1 := by
  apply BitVec.eq_of_getLsbD_eq
  intro i hi
  simp only [encB, place, BitVec.getLsbD_or, BitVec.getLsbD_shiftLeft, BitVec.getLsbD_setWidth,
    BitVec.getLsbD_extractLsb']
  interval_cases i ; simp

@[simp] theorem encB_b25 (k : BitVec 12) (rs2 rs1 : BitVec 5) (f3 : BitVec 3) (op : BitVec 7) :
    (encB k rs2 rs1 f3 op).extractLsb' 25 6 = k.extractLsb' 4 6 := by
  apply BitVec.eq_of_getLsbD_eq
  intro i hi
  simp only [encB, place, BitVec.getLsbD_or, BitVec.getLsbD_shiftLeft, BitVec.getLsbD_setWidth,
    BitVec.getLsbD_extractLsb']
  interval_cases i <;> simp

@[simp] theorem encB_b8 (k : BitVec 12) (rs2 rs1 : BitVec 5) (f3 : BitVec 3) (op : BitVec 7) :
    (encB k rs2 rs1 f3 op).extractLsb' 8 4 = k.extractLsb' 0 4 := by
  apply BitVec.eq_of_getLsbD_eq
  intro i hi
  simp only [encB, place, BitVec.getLsbD_or, BitVec.getLsbD_shiftLeft, BitVec.getLsbD_setWidth,
    BitVec.getLsbD_extractLsb']
  interval_cases i <;> simp

@[simp] theorem encU_imm (imm : BitVec 20) (rd : BitVec 5) (op : BitVec 7) :
    (encU imm rd op).extractLsb' 12 20 = imm := by
  apply BitVec.eq_of_getLsbD_eq
  intro i hi
  simp only [encU, place, BitVec.getLsbD_or, BitVec.getLsbD_shiftLeft, BitVec.getLsbD_setWidth,
    BitVec.getLsbD_extractLsb']
  interval_cases i <;> simp

@[simp] theorem encU_rd (imm : BitVec 20) (rd : BitVec 5) (op : BitVec 7) :
    (encU imm rd op).extractLsb' 7 5 = rd := by
  apply BitVec.eq_of_getLsbD_eq
  intro i hi
  simp only [encU, place, BitVec.getLsbD_or, BitVec.getLsbD_shiftLeft, BitVec.getLsbD_setWidth,
    BitVec.getLsbD_extractLsb']
  interval_cases i <;> simp

@[simp] theorem encU_op (imm : BitVec 20) (rd : BitVec 5) (op : BitVec 7) :
    (encU imm rd op).extractLsb' 0 7 = op := by
  apply BitVec.eq_of_getLsbD_eq
  intro i hi
  simp only [encU, place, BitVec.getLsbD_or, BitVec.getLsbD_shiftLeft, BitVec.getLsbD_setWidth,
    BitVec.getLsbD_extractLsb']
  interval_cases i <;> simp

@[simp] theorem encJ_rd (joff : BitVec 21) (rd : BitVec 5) (op : BitVec 7) :
    (encJ joff rd op).extractLsb' 7 5 = rd := by
  apply BitVec.eq_of_getLsbD_eq
  intro i hi
  simp only [encJ, place, BitVec.getLsbD_or, BitVec.getLsbD_shiftLeft, BitVec.getLsbD_setWidth,
    BitVec.getLsbD_extractLsb']
  interval_cases i <;> simp

@[simp] theorem encJ_op (joff : BitVec 21) (rd : BitVec 5) (op : BitVec 7) :
    (encJ joff rd op).extractLsb' 0 7 = op := by
  apply BitVec.eq_of_getLsbD_eq
  intro i hi
  simp only [encJ, place, BitVec.getLsbD_or, BitVec.getLsbD_shiftLeft, BitVec.getLsbD_setWidth,
    BitVec.getLsbD_extractLsb']
  interval_cases i <;> simp

@[simp] theorem encJ_b31 (joff : BitVec 21) (rd : BitVec 5) (op : BitVec 7) :
    (encJ joff rd op).extractLsb' 31 1 = joff.extractLsb' 20 1 := by
  apply BitVec.eq_of_getLsbD_eq
  intro i hi
  simp only [encJ, place, BitVec.getLsbD_or, BitVec.getLsbD_shiftLeft, BitVec.getLsbD_setWidth,
    BitVec.getLsbD_extractLsb']
  interval_cases i ; simp

@[simp] theorem encJ_b12 (joff : BitVec 21) (rd : BitVec 5) (op : BitVec 7) :
    (encJ joff rd op).extractLsb' 12 8 = joff.extractLsb' 12 8 := by
  apply BitVec.eq_of_getLsbD_eq
  intro i hi
  simp only [encJ, place, BitVec.getLsbD_or, BitVec.getLsbD_shiftLeft, BitVec.getLsbD_setWidth,
    BitVec.getLsbD_extractLsb']
  interval_cases i <;> simp

@[simp] theorem encJ_b20 (joff : BitVec 21) (rd : BitVec 5) (op : BitVec 7) :
    (encJ joff rd op).extractLsb' 20 1 = joff.extractLsb' 11 1 := by
  apply BitVec.eq_of_getLsbD_eq
  intro i hi
  simp only [encJ, place, BitVec.getLsbD_or, BitVec.getLsbD_shiftLeft, BitVec.getLsbD_setWidth,
    BitVec.getLsbD_extractLsb']
  interval_cases i ; simp

@[simp] theorem encJ_b21 (joff : BitVec 21) (rd : BitVec 5) (op : BitVec 7) :
    (encJ joff rd op).extractLsb' 21 10 = joff.extractLsb' 1 10 := by
  apply BitVec.eq_of_getLsbD_eq
  intro i hi
  simp only [encJ, place, BitVec.getLsbD_or, BitVec.getLsbD_shiftLeft, BitVec.getLsbD_setWidth,
    BitVec.getLsbD_extractLsb']
  interval_cases i <;> simp

/-! ### Immediates: what the encoder split, the decoder joins (R91 to R95) -/

theorem fitsSigned_eq {n : Nat} {v : Word} (h : fitsSigned n v = true) : sext64 (v.setWidth n) = v := by
  simpa [fitsSigned] using h

theorem fitsUnsigned_eq {n : Nat} {v : Word} (h : fitsUnsigned n v = true) : zext64 (v.setWidth n) = v := by
  simpa [fitsUnsigned] using h

theorem immI_encI {imm : Word} (h : fitsSigned 12 imm = true) (rs1 : BitVec 5) (f3 : BitVec 3) (rd : BitVec 5)
    (op : BitVec 7) : immI (encI (imm.setWidth 12) rs1 f3 rd op) = imm := by
  rw [immI, encI_imm, fitsSigned_eq h]

theorem join_S (v : BitVec 12) : (v.extractLsb' 5 7 ++ v.extractLsb' 0 5 : BitVec (7 + 5)) = v := by
  apply BitVec.eq_of_getLsbD_eq
  intro i hi
  simp only [BitVec.getLsbD_append, BitVec.getLsbD_extractLsb']
  interval_cases i <;> simp

theorem immS_encS {imm : Word} (h : fitsSigned 12 imm = true) (rs2 rs1 : BitVec 5) (f3 : BitVec 3)
    (op : BitVec 7) : immS (encS (imm.setWidth 12) rs2 rs1 f3 op) = imm := by
  rw [immS, encS_hi, encS_lo, join_S]; exact fitsSigned_eq h

theorem immU_encU {imm : Word} (h : fitsSigned 20 imm = true) (rd : BitVec 5) (op : BitVec 7) :
    immU (encU (imm.setWidth 20) rd op) = imm := by
  rw [immU, encU_imm, fitsSigned_eq h]

theorem join_B (v : BitVec 12) :
    (v.extractLsb' 11 1 ++ v.extractLsb' 10 1 ++ v.extractLsb' 4 6 ++ v.extractLsb' 0 4 : BitVec (1 + 1 + 6 + 4)) = v := by
  apply BitVec.eq_of_getLsbD_eq
  intro i hi
  simp only [BitVec.getLsbD_append, BitVec.getLsbD_extractLsb']
  interval_cases i <;> simp

theorem immB_encB {k : Word} (h : fitsSigned 12 k = true) (rs2 rs1 : BitVec 5) (f3 : BitVec 3) (op : BitVec 7) :
    immB (encB (k.setWidth 12) rs2 rs1 f3 op) = k := by
  rw [immB, encB_b31, encB_b7, encB_b25, encB_b8, join_B]; exact fitsSigned_eq h

theorem join_J (v : BitVec 21) (h : v.getLsbD 0 = false) :
    (v.extractLsb' 20 1 ++ v.extractLsb' 12 8 ++ v.extractLsb' 11 1 ++ v.extractLsb' 1 10 ++ 0#1 :
      BitVec (1 + 8 + 1 + 10 + 1)) = v := by
  apply BitVec.eq_of_getLsbD_eq
  intro i hi
  simp only [BitVec.getLsbD_append, BitVec.getLsbD_extractLsb']
  interval_cases i <;> simp; simpa using h

theorem immJ_encJ {joff : Word} (h : fitsSigned 21 joff = true) (h0 : joff.getLsbD 0 = false) (rd : BitVec 5)
    (op : BitVec 7) : immJ (encJ (joff.setWidth 21) rd op) = joff := by
  rw [immJ, encJ_b31, encJ_b12, encJ_b20, encJ_b21, join_J _ (by simpa using h0)]; exact fitsSigned_eq h

theorem append_low_6_6 (a : BitVec 6) (b : BitVec 6) :
    (a ++ b : BitVec (6 + 6)).extractLsb' 0 6 = b := by
  apply BitVec.eq_of_getLsbD_eq
  intro i hi
  simp only [BitVec.getLsbD_append, BitVec.getLsbD_extractLsb']
  interval_cases i <;> simp

theorem append_high_6_6 (a : BitVec 6) (b : BitVec 6) :
    (a ++ b : BitVec (6 + 6)).extractLsb' 6 6 = a := by
  apply BitVec.eq_of_getLsbD_eq
  intro i hi
  simp only [BitVec.getLsbD_append, BitVec.getLsbD_extractLsb']
  interval_cases i <;> simp

theorem append_low_5_2 (a : BitVec 5) (b : BitVec 2) :
    (a ++ b : BitVec (5 + 2)).extractLsb' 0 2 = b := by
  apply BitVec.eq_of_getLsbD_eq
  intro i hi
  simp only [BitVec.getLsbD_append, BitVec.getLsbD_extractLsb']
  interval_cases i <;> simp

theorem append_high_5_2 (a : BitVec 5) (b : BitVec 2) :
    (a ++ b : BitVec (5 + 2)).extractLsb' 2 5 = a := by
  apply BitVec.eq_of_getLsbD_eq
  intro i hi
  simp only [BitVec.getLsbD_append, BitVec.getLsbD_extractLsb']
  interval_cases i <;> simp

/-! ### Ignored bits (R117): setting them in an encoding changes only a field no row looks at -/

theorem encR_ignored (f7 : BitVec 7) (rs2 rs1 rd : BitVec 5) (op : BitVec 7) (v : Word32) :
    encR f7 rs2 rs1 rmIgnored rd op ||| (v &&& 0x00007000#32) = encR f7 rs2 rs1 (v.extractLsb' 12 3) rd op := by
  apply BitVec.eq_of_getLsbD_eq
  intro i hi
  simp only [encR, rmIgnored, place, BitVec.getLsbD_and, BitVec.getLsbD_or, BitVec.getLsbD_shiftLeft, BitVec.getLsbD_setWidth, BitVec.getLsbD_extractLsb']
  interval_cases i <;> simp

theorem encR4_ignored (rs3 : BitVec 5) (f2 : BitVec 2) (rs2 rs1 rd : BitVec 5) (op : BitVec 7) (v : Word32) :
    encR4 rs3 f2 rs2 rs1 rmIgnored rd op ||| (v &&& 0x00007000#32) =
      encR4 rs3 f2 rs2 rs1 (v.extractLsb' 12 3) rd op := by
  apply BitVec.eq_of_getLsbD_eq
  intro i hi
  simp only [encR4, rmIgnored, place, BitVec.getLsbD_and, BitVec.getLsbD_or, BitVec.getLsbD_shiftLeft, BitVec.getLsbD_setWidth, BitVec.getLsbD_extractLsb']
  interval_cases i <;> simp

theorem encAmo_ignored (f5 : BitVec 5) (rs2 rs1 : BitVec 5) (f3 : BitVec 3) (rd : BitVec 5) (v : Word32) :
    encAmo f5 rs2 rs1 f3 rd ||| (v &&& 0x06000000#32) =
      encR (f5 ++ v.extractLsb' 25 2 : BitVec (5 + 2)) rs2 rs1 f3 rd 0b0101111#7 := by
  apply BitVec.eq_of_getLsbD_eq
  intro i hi
  simp only [encAmo, encR, BitVec.getLsbD_append, place, BitVec.getLsbD_and, BitVec.getLsbD_or, BitVec.getLsbD_shiftLeft, BitVec.getLsbD_setWidth, BitVec.getLsbD_extractLsb']
  interval_cases i <;> simp

theorem encI_ignored (f3 : BitVec 3) (op : BitVec 7) (v : Word32) :
    encI 0#12 0#5 f3 0#5 op ||| (v &&& 0xFFFF8F80#32) =
      encI (v.extractLsb' 20 12) (v.extractLsb' 15 5) f3 (v.extractLsb' 7 5) op := by
  apply BitVec.eq_of_getLsbD_eq
  intro i hi
  simp only [encI, place, BitVec.getLsbD_and, BitVec.getLsbD_or, BitVec.getLsbD_shiftLeft, BitVec.getLsbD_setWidth, BitVec.getLsbD_extractLsb']
  interval_cases i <;> simp

/-! ### Decoding from the fields a row fixes -/

theorem decode_of_0000007F {r : Row} {w : Word32} {op : BitVec 7} (hr : r ∈ rows)
    (hm : r.mask = 0x0000007F#32) (hp : r.pat = place 0 op)
    (h0 : w.extractLsb' 0 7 = op) : decode w = .ok (r.build w) :=
  decode_of_row hr (by simp only [Row.accepts, hm, hp, mask_0000007F, h0, beq_self_eq_true])

theorem decode_of_0000707F {r : Row} {w : Word32} {op : BitVec 7} {f3 : BitVec 3} (hr : r ∈ rows)
    (hm : r.mask = 0x0000707F#32) (hp : r.pat = place 0 op ||| place 12 f3)
    (h0 : w.extractLsb' 0 7 = op) (h12 : w.extractLsb' 12 3 = f3) : decode w = .ok (r.build w) :=
  decode_of_row hr (by simp only [Row.accepts, hm, hp, mask_0000707F, h0, h12, beq_self_eq_true])

theorem decode_of_FC00707F {r : Row} {w : Word32} {op : BitVec 7} {f3 : BitVec 3} {top : BitVec 6} (hr : r ∈ rows)
    (hm : r.mask = 0xFC00707F#32) (hp : r.pat = place 0 op ||| place 12 f3 ||| place 26 top)
    (h0 : w.extractLsb' 0 7 = op) (h12 : w.extractLsb' 12 3 = f3) (h26 : w.extractLsb' 26 6 = top) : decode w = .ok (r.build w) :=
  decode_of_row hr (by simp only [Row.accepts, hm, hp, mask_FC00707F, h0, h12, h26, beq_self_eq_true])

theorem decode_of_FE00707F {r : Row} {w : Word32} {op : BitVec 7} {f3 : BitVec 3} {f7 : BitVec 7} (hr : r ∈ rows)
    (hm : r.mask = 0xFE00707F#32) (hp : r.pat = place 0 op ||| place 12 f3 ||| place 25 f7)
    (h0 : w.extractLsb' 0 7 = op) (h12 : w.extractLsb' 12 3 = f3) (h25 : w.extractLsb' 25 7 = f7) : decode w = .ok (r.build w) :=
  decode_of_row hr (by simp only [Row.accepts, hm, hp, mask_FE00707F, h0, h12, h25, beq_self_eq_true])

theorem decode_of_FE00007F {r : Row} {w : Word32} {op : BitVec 7} {f7 : BitVec 7} (hr : r ∈ rows)
    (hm : r.mask = 0xFE00007F#32) (hp : r.pat = place 0 op ||| place 25 f7)
    (h0 : w.extractLsb' 0 7 = op) (h25 : w.extractLsb' 25 7 = f7) : decode w = .ok (r.build w) :=
  decode_of_row hr (by simp only [Row.accepts, hm, hp, mask_FE00007F, h0, h25, beq_self_eq_true])

theorem decode_of_FFF0007F {r : Row} {w : Word32} {op : BitVec 7} {sub : BitVec 5} {f7 : BitVec 7} (hr : r ∈ rows)
    (hm : r.mask = 0xFFF0007F#32) (hp : r.pat = place 0 op ||| place 20 sub ||| place 25 f7)
    (h0 : w.extractLsb' 0 7 = op) (h20 : w.extractLsb' 20 5 = sub) (h25 : w.extractLsb' 25 7 = f7) : decode w = .ok (r.build w) :=
  decode_of_row hr (by simp only [Row.accepts, hm, hp, mask_FFF0007F, h0, h20, h25, beq_self_eq_true])

theorem decode_of_FFF0707F {r : Row} {w : Word32} {op : BitVec 7} {f3 : BitVec 3} {sub : BitVec 5} {f7 : BitVec 7} (hr : r ∈ rows)
    (hm : r.mask = 0xFFF0707F#32) (hp : r.pat = place 0 op ||| place 12 f3 ||| place 20 sub ||| place 25 f7)
    (h0 : w.extractLsb' 0 7 = op) (h12 : w.extractLsb' 12 3 = f3) (h20 : w.extractLsb' 20 5 = sub) (h25 : w.extractLsb' 25 7 = f7) : decode w = .ok (r.build w) :=
  decode_of_row hr (by simp only [Row.accepts, hm, hp, mask_FFF0707F, h0, h12, h20, h25, beq_self_eq_true])

theorem decode_of_F800707F {r : Row} {w : Word32} {op : BitVec 7} {f3 : BitVec 3} {f5 : BitVec 5} (hr : r ∈ rows)
    (hm : r.mask = 0xF800707F#32) (hp : r.pat = place 0 op ||| place 12 f3 ||| place 27 f5)
    (h0 : w.extractLsb' 0 7 = op) (h12 : w.extractLsb' 12 3 = f3) (h27 : w.extractLsb' 27 5 = f5) : decode w = .ok (r.build w) :=
  decode_of_row hr (by simp only [Row.accepts, hm, hp, mask_F800707F, h0, h12, h27, beq_self_eq_true])

theorem decode_of_F9F0707F {r : Row} {w : Word32} {op : BitVec 7} {f3 : BitVec 3} {sub : BitVec 5} {f5 : BitVec 5} (hr : r ∈ rows)
    (hm : r.mask = 0xF9F0707F#32) (hp : r.pat = place 0 op ||| place 12 f3 ||| place 20 sub ||| place 27 f5)
    (h0 : w.extractLsb' 0 7 = op) (h12 : w.extractLsb' 12 3 = f3) (h20 : w.extractLsb' 20 5 = sub) (h27 : w.extractLsb' 27 5 = f5) : decode w = .ok (r.build w) :=
  decode_of_row hr (by simp only [Row.accepts, hm, hp, mask_F9F0707F, h0, h12, h20, h27, beq_self_eq_true])

theorem decode_of_0600007F {r : Row} {w : Word32} {op : BitVec 7} {f7 : BitVec 2} (hr : r ∈ rows)
    (hm : r.mask = 0x0600007F#32) (hp : r.pat = place 0 op ||| place 25 f7)
    (h0 : w.extractLsb' 0 7 = op) (h25 : w.extractLsb' 25 2 = f7) : decode w = .ok (r.build w) :=
  decode_of_row hr (by simp only [Row.accepts, hm, hp, mask_0600007F, h0, h25, beq_self_eq_true])

/-! ### A word is its fields put together -/

theorem encR_self (w : Word32) :
    encR (w.extractLsb' 25 7) (w.extractLsb' 20 5) (w.extractLsb' 15 5) (w.extractLsb' 12 3) (w.extractLsb' 7 5) (w.extractLsb' 0 7) = w := by
  apply BitVec.eq_of_getLsbD_eq
  intro i hi
  simp only [encR, place, BitVec.getLsbD_or, BitVec.getLsbD_shiftLeft, BitVec.getLsbD_setWidth, BitVec.getLsbD_extractLsb']
  interval_cases i <;> simp

theorem encR4_self (w : Word32) :
    encR4 (w.extractLsb' 27 5) (w.extractLsb' 25 2) (w.extractLsb' 20 5) (w.extractLsb' 15 5) (w.extractLsb' 12 3) (w.extractLsb' 7 5) (w.extractLsb' 0 7) = w := by
  apply BitVec.eq_of_getLsbD_eq
  intro i hi
  simp only [encR4, place, BitVec.getLsbD_or, BitVec.getLsbD_shiftLeft, BitVec.getLsbD_setWidth, BitVec.getLsbD_extractLsb']
  interval_cases i <;> simp

theorem encI_self (w : Word32) :
    encI (w.extractLsb' 20 12) (w.extractLsb' 15 5) (w.extractLsb' 12 3) (w.extractLsb' 7 5) (w.extractLsb' 0 7) = w := by
  apply BitVec.eq_of_getLsbD_eq
  intro i hi
  simp only [encI, place, BitVec.getLsbD_or, BitVec.getLsbD_shiftLeft, BitVec.getLsbD_setWidth, BitVec.getLsbD_extractLsb']
  interval_cases i <;> simp

theorem encS_self (w : Word32) :
    encS (w.extractLsb' 25 7 ++ w.extractLsb' 7 5 : BitVec (7 + 5)) (w.extractLsb' 20 5) (w.extractLsb' 15 5) (w.extractLsb' 12 3) (w.extractLsb' 0 7) = w := by
  apply BitVec.eq_of_getLsbD_eq
  intro i hi
  simp only [encS, place, BitVec.getLsbD_or, BitVec.getLsbD_shiftLeft, BitVec.getLsbD_setWidth, BitVec.getLsbD_extractLsb', BitVec.getLsbD_append]
  interval_cases i <;> simp

theorem encB_self (w : Word32) :
    encB (w.extractLsb' 31 1 ++ w.extractLsb' 7 1 ++ w.extractLsb' 25 6 ++ w.extractLsb' 8 4 :
      BitVec (1 + 1 + 6 + 4)) (w.extractLsb' 20 5) (w.extractLsb' 15 5) (w.extractLsb' 12 3) (w.extractLsb' 0 7) = w := by
  apply BitVec.eq_of_getLsbD_eq
  intro i hi
  simp only [encB, place, BitVec.getLsbD_or, BitVec.getLsbD_shiftLeft, BitVec.getLsbD_setWidth, BitVec.getLsbD_extractLsb', BitVec.getLsbD_append]
  interval_cases i <;> simp

theorem encU_self (w : Word32) :
    encU (w.extractLsb' 12 20) (w.extractLsb' 7 5) (w.extractLsb' 0 7) = w := by
  apply BitVec.eq_of_getLsbD_eq
  intro i hi
  simp only [encU, place, BitVec.getLsbD_or, BitVec.getLsbD_shiftLeft, BitVec.getLsbD_setWidth, BitVec.getLsbD_extractLsb']
  interval_cases i <;> simp

theorem encJ_self (w : Word32) :
    encJ (w.extractLsb' 31 1 ++ w.extractLsb' 12 8 ++ w.extractLsb' 20 1 ++ w.extractLsb' 21 10 ++ 0#1 :
      BitVec (1 + 8 + 1 + 10 + 1)) (w.extractLsb' 7 5) (w.extractLsb' 0 7) = w := by
  apply BitVec.eq_of_getLsbD_eq
  intro i hi
  simp only [encJ, place, BitVec.getLsbD_or, BitVec.getLsbD_shiftLeft, BitVec.getLsbD_setWidth, BitVec.getLsbD_extractLsb', BitVec.getLsbD_append]
  interval_cases i <;> simp

end Sys2Proof
end

