-- ==== Sys2Proof/Laws/F32.lean ====
section
/-! SUPPORT. Laws of the binary32 patterns and of the one rounding: magnitudes grow with bits 30:0, what `f32Round` picks
its two candidates from, and the integer square root. -/

namespace Sys2Proof.Machine

/-! ### Patterns as numbers -/

theorem f32Exp_eq (a : Word32) : f32Exp a = a.toNat / 2 ^ 23 % 2 ^ 8 := by
  simp [f32Exp, Nat.shiftRight_eq_div_pow]

theorem f32Frac_eq (a : Word32) : f32Frac a = a.toNat % 2 ^ 23 := by simp [f32Frac]

theorem f32Sign_eq (a : Word32) : f32Sign a = decide (2 ^ 31 ≤ a.toNat) := by
  have h := a.isLt
  rw [f32Sign, ← BitVec.msb_eq_getLsbD_last a, BitVec.msb_eq_decide]

theorem f32Signed_toNat (neg : Bool) {b : Nat} (h : b < 2 ^ 31) :
    (f32Signed neg b).toNat = if neg then 2 ^ 31 + b else b := by
  cases neg <;> simp [f32Signed] <;> omega

/-- Every pattern is its sign and its bits 30:0. -/
theorem f32Signed_self (a : Word32) : f32Signed (f32Sign a) (a.toNat % 2 ^ 31) = a := by
  have h := a.isLt
  apply BitVec.eq_of_toNat_eq
  rw [f32Signed_toNat _ (Nat.mod_lt _ (by decide)), f32Sign_eq]
  simp only [decide_eq_true_eq]
  split <;> omega

theorem f32Sign_signed (neg : Bool) {b : Nat} (h : b < 2 ^ 31) : f32Sign (f32Signed neg b) = neg := by
  rw [f32Sign_eq, f32Signed_toNat neg h]
  cases neg
  · simp; omega
  · simp

/-- The magnitude of bits 30:0, in units of 2^-149. -/
def f32MagOf (b : Nat) : Nat := if b / 2 ^ 23 = 0 then b % 2 ^ 23 else (2 ^ 23 + b % 2 ^ 23) * 2 ^ (b / 2 ^ 23 - 1)

theorem f32Mag_signed (neg : Bool) {b : Nat} (h : b < 2 ^ 31) : f32Mag (f32Signed neg b) = f32MagOf b := by
  have e1 : f32Exp (f32Signed neg b) = b / 2 ^ 23 := by
    rw [f32Exp_eq, f32Signed_toNat neg h]; cases neg <;> simp only [if_true, if_false, Bool.false_eq_true] <;> omega
  have e2 : f32Frac (f32Signed neg b) = b % 2 ^ 23 := by
    rw [f32Frac_eq, f32Signed_toNat neg h]; split
    · omega
    · rfl
  rw [f32Mag, f32MagOf, e1, e2]

theorem f32Mag_eq (a : Word32) : f32Mag a = f32MagOf (a.toNat % 2 ^ 31) := by
  rw [← f32Mag_signed (f32Sign a) (Nat.mod_lt _ (by decide)), f32Signed_self]

/-- A significand n at spacing 2^k, carried into the exponent when it reaches 2^24. -/
theorem f32MagOf_at {k n : Nat} (h : n ≤ 2 ^ 24) (h' : k = 0 ∨ 2 ^ 23 ≤ n) : f32MagOf (k * 2 ^ 23 + n) = n * 2 ^ k := by
  unfold f32MagOf
  rcases Nat.lt_or_ge n (2 ^ 23) with h1 | h1
  · obtain rfl : k = 0 := by omega
    have e : (0 * 2 ^ 23 + n) / 2 ^ 23 = 0 := by omega
    rw [if_pos e, Nat.pow_zero]; omega
  · rcases Nat.lt_or_ge n (2 ^ 24) with h2 | h2
    · have e1 : (k * 2 ^ 23 + n) / 2 ^ 23 = k + 1 := by omega
      have e2 : (k * 2 ^ 23 + n) % 2 ^ 23 = n - 2 ^ 23 := by omega
      rw [e1, e2, if_neg (Nat.succ_ne_zero k), show k + 1 - 1 = k from rfl, show 2 ^ 23 + (n - 2 ^ 23) = n by omega]
    · obtain rfl : n = 2 ^ 24 := by omega
      have e1 : (k * 2 ^ 23 + 2 ^ 24) / 2 ^ 23 = k + 2 := by omega
      have e2 : (k * 2 ^ 23 + 2 ^ 24) % 2 ^ 23 = 0 := by omega
      rw [e1, e2, if_neg (Nat.succ_ne_zero (k + 1)), show k + 2 - 1 = k + 1 from rfl, Nat.pow_succ]; omega

/-- Every b is a significand below 2^24 at a spacing. -/
theorem f32_split (b : Nat) : ∃ k n, b = k * 2 ^ 23 + n ∧ n < 2 ^ 24 ∧ (k = 0 ∨ 2 ^ 23 ≤ n) :=
  ⟨b / 2 ^ 23 - 1, b - (b / 2 ^ 23 - 1) * 2 ^ 23, by omega, by omega, by omega⟩

theorem f32MagOf_lt_succ (b : Nat) : f32MagOf b < f32MagOf (b + 1) := by
  obtain ⟨k, n, rfl, h, h'⟩ := f32_split b
  rw [f32MagOf_at (by omega) h', Nat.add_assoc, f32MagOf_at (by omega) (by omega), Nat.succ_mul]
  exact Nat.lt_add_of_pos_right (Nat.two_pow_pos k)

theorem f32MagOf_strictMono : StrictMono f32MagOf := strictMono_nat_of_lt_succ f32MagOf_lt_succ

/-! ### The rounding -/

/-- The two candidates of `f32Round`: the quotient lies at or above the magnitude of pattern `k * 2^23 + n` and below
that of the next pattern, and the remainder compares with the spacing as the quotient with their midpoint. -/
theorem f32Round_bounds {num den : Nat} (hd : 0 < den) :
    let k := Nat.log2 (num / den) - 23
    let d := den * 2 ^ k
    let n := num / d
    n < 2 ^ 24 ∧ (k = 0 ∨ 2 ^ 23 ≤ n) ∧ num = n * d + num % d ∧ num % d < d ∧
      f32MagOf (k * 2 ^ 23 + n) * den = n * d ∧ f32MagOf (k * 2 ^ 23 + n + 1) * den = n * d + d := by
  intro k d n
  have hd' : 0 < d := Nat.mul_pos hd (Nat.two_pow_pos k)
  have hn : n = num / den / 2 ^ k := (Nat.div_div_eq_div_mul num den (2 ^ k)).symm
  have hlt : num / den < 2 ^ (Nat.log2 (num / den) + 1) := Nat.lt_log2_self
  have h1 : n < 2 ^ 24 := by
    rw [hn]; apply Nat.div_lt_of_lt_mul
    calc num / den < 2 ^ (Nat.log2 (num / den) + 1) := hlt
      _ ≤ 2 ^ (k + 24) := Nat.pow_le_pow_right (by decide) (by omega)
      _ = 2 ^ k * 2 ^ 24 := Nat.pow_add ..
  have h2 : k = 0 ∨ 2 ^ 23 ≤ n := by
    by_cases hk : k = 0
    · exact .inl hk
    · right
      have hq : num / den ≠ 0 := by intro h0; simp [k, h0] at hk
      rw [hn, Nat.le_div_iff_mul_le (Nat.two_pow_pos k)]
      calc 2 ^ 23 * 2 ^ k = 2 ^ (23 + k) := (Nat.pow_add ..).symm
        _ = 2 ^ Nat.log2 (num / den) := by congr 1; omega
        _ ≤ num / den := Nat.log2_self_le hq
  refine ⟨h1, h2, (Nat.div_add_mod' num d).symm, Nat.mod_lt _ hd', ?_, ?_⟩
  · rw [f32MagOf_at (by omega) h2, Nat.mul_assoc, Nat.mul_comm (2 ^ k)]
  · rw [Nat.add_assoc, f32MagOf_at (by omega) (by omega), Nat.mul_assoc, Nat.mul_comm (2 ^ k), Nat.succ_mul]

/-- The last bit of a pattern is the parity of its significand. -/
theorem f32_parity (k n : Nat) : (k * 2 ^ 23 + n) % 2 = n % 2 := by omega

/-! ### The integer square root -/

theorem isqrtFrom_spec (x b r : Nat) (h1 : r * r ≤ x) (h2 : x < (r + 2 ^ b) * (r + 2 ^ b)) :
    isqrtFrom x b r * isqrtFrom x b r ≤ x ∧ x < (isqrtFrom x b r + 1) * (isqrtFrom x b r + 1) := by
  induction b generalizing r with
  | zero => exact ⟨h1, h2⟩
  | succ b ih =>
    have e : r + 2 ^ b + 2 ^ b = r + 2 ^ (b + 1) := by rw [Nat.pow_succ]; omega
    simp only [isqrtFrom]
    split
    · exact ih _ ‹_› (by rw [e]; exact h2)
    · exact ih _ h1 (by omega)

theorem isqrt_spec (x : Nat) : isqrt x * isqrt x ≤ x ∧ x < (isqrt x + 1) * (isqrt x + 1) := by
  apply isqrtFrom_spec
  · simp
  · rw [Nat.zero_add, ← Nat.pow_add]
    exact Nat.lt_of_lt_of_le Nat.lt_log2_self (Nat.pow_le_pow_right (by decide) (by omega))

end Sys2Proof.Machine
end

