-- ==== Sys2Proof/Laws/Sparse.lean ====
section
/-! SUPPORT. Laws of the sparse map: read after write, the canonical form is kept, equal maps are equal lists. -/

namespace Sys2Proof.Machine

variable {α : Type}

theorem sparseGet_of_unlisted (d : α) {l : List (Nat × α)} {a : Nat} (h : ∀ p ∈ l, p.1 ≠ a) :
    sparseGet d l a = d := by
  induction l with
  | nil => rfl
  | cons p l ih =>
    have hp := h p (by simp)
    simp only [sparseGet]
    rw [if_neg (fun e => hp e.symm), ih (fun q hq => h q (by simp [hq]))]

theorem sparseGet_filter (d : α) (l : List (Nat × α)) (a b : Nat) :
    sparseGet d (l.filter (fun p => p.1 != a)) b = if b = a then d else sparseGet d l b := by
  induction l with
  | nil => simp [sparseGet]
  | cons p l ih =>
    obtain ⟨k, v⟩ := p
    by_cases hk : k = a
    · subst hk; simp only [List.filter, bne_self_eq_false, ih, sparseGet]; split <;> rfl
    · have : (k != a) = true := by simpa using hk
      simp only [List.filter, this, sparseGet, ih]
      by_cases hb : b = k
      · subst hb; simp [hk]
      · simp [hb]

theorem sparseGet_insert (d : α) {l : List (Nat × α)} {a : Nat} (v : α) (b : Nat) (h : ∀ p ∈ l, p.1 ≠ a) :
    sparseGet d (sparseInsert a v l) b = if b = a then v else sparseGet d l b := by
  induction l with
  | nil => simp [sparseInsert, sparseGet]
  | cons p l ih =>
    obtain ⟨k, u⟩ := p
    simp only [sparseInsert]
    split
    · simp [sparseGet]
    · have hk : k ≠ a := h (k, u) (by simp)
      simp only [sparseGet, ih (fun q hq => h q (by simp [hq]))]
      by_cases hb : b = k
      · subst hb; simp [hk]
      · simp [hb]

/-- Read after write: the value at the key written, every other key as before. No premise. -/
theorem sparseGet_put [DecidableEq α] (d : α) (l : List (Nat × α)) (a : Nat) (v : α) (b : Nat) :
    sparseGet d (sparsePut d a v l) b = if b = a then v else sparseGet d l b := by
  unfold sparsePut
  by_cases hv : v = d
  · subst hv; simp [sparseGet_filter]
  · simp only [hv, if_false]
    rw [sparseGet_insert d v b (by intro p hp; simpa using (List.mem_filter.1 hp).2), sparseGet_filter]
    split <;> rfl

theorem mem_sparseInsert {l : List (Nat × α)} {a : Nat} {v : α} {p : Nat × α} :
    p ∈ sparseInsert a v l ↔ p = (a, v) ∨ p ∈ l := by
  induction l with
  | nil => simp [sparseInsert]
  | cons q l ih =>
    obtain ⟨k, u⟩ := q
    simp only [sparseInsert]
    split
    · simp
    · simp only [List.mem_cons, ih]; tauto

theorem sparseInsert_pairwise {l : List (Nat × α)} {a : Nat} {v : α} (h : ∀ p ∈ l, p.1 ≠ a)
    (hl : l.Pairwise (fun p q => p.1 < q.1)) : (sparseInsert a v l).Pairwise (fun p q => p.1 < q.1) := by
  induction l with
  | nil => simp [sparseInsert]
  | cons q l ih =>
    obtain ⟨k, u⟩ := q
    rw [List.pairwise_cons] at hl
    simp only [sparseInsert]
    split
    · rename_i hak
      refine List.pairwise_cons.2 ⟨fun p hp => ?_, List.pairwise_cons.2 hl⟩
      rcases List.mem_cons.1 hp with rfl | hp
      · exact hak
      · exact Nat.lt_trans hak (hl.1 p hp)
    · rename_i hak
      have hk : k ≠ a := h (k, u) (by simp)
      refine List.pairwise_cons.2 ⟨fun p hp => ?_, ih (fun q hq => h q (by simp [hq])) hl.2⟩
      rcases mem_sparseInsert.1 hp with rfl | hp
      · show k < a; omega
      · exact hl.1 p hp

/-- A write inside the bound keeps the canonical form. -/
theorem sparseWf_put [DecidableEq α] {d : α} {bound : Nat} {l : List (Nat × α)} {a : Nat} (v : α) (ha : a < bound)
    (h : sparseWf d bound l) : sparseWf d bound (sparsePut d a v l) := by
  have hf : sparseWf d bound (l.filter (fun p => p.1 != a)) :=
    ⟨h.1.filter _, fun p hp => h.2 p (List.mem_filter.1 hp).1⟩
  unfold sparsePut
  by_cases hv : v = d
  · simpa [hv] using hf
  · simp only [hv, if_false]
    refine ⟨sparseInsert_pairwise (by intro p hp; simpa using (List.mem_filter.1 hp).2) hf.1, fun p hp => ?_⟩
    rcases mem_sparseInsert.1 hp with rfl | hp
    · exact ⟨hv, ha⟩
    · exact hf.2 p hp

theorem sparseWf_mono [DecidableEq α] {d : α} {b b' : Nat} {l : List (Nat × α)} (hb : b ≤ b')
    (h : sparseWf d b l) : sparseWf d b' l :=
  ⟨h.1, fun p hp => ⟨(h.2 p hp).1, Nat.lt_of_lt_of_le (h.2 p hp).2 hb⟩⟩

/-- Beyond the bound nothing is listed. -/
theorem sparseGet_outside [DecidableEq α] {d : α} {bound : Nat} {l : List (Nat × α)} (h : sparseWf d bound l) {a : Nat}
    (ha : bound ≤ a) : sparseGet d l a = d :=
  sparseGet_of_unlisted d fun p hp e => by have := (h.2 p hp).2; omega

/-- Two maps in canonical form that read alike are the same list. -/
theorem sparse_ext [DecidableEq α] {d : α} {b b' : Nat} {l l' : List (Nat × α)} (h : sparseWf d b l)
    (h' : sparseWf d b' l') (e : ∀ a, sparseGet d l a = sparseGet d l' a) : l = l' := by
  induction l generalizing l' with
  | nil =>
    cases l' with
    | nil => rfl
    | cons q l' =>
      have := e q.1
      simp only [sparseGet, if_true] at this
      exact absurd this.symm (h'.2 q (by simp)).1
  | cons p l ih =>
    obtain ⟨k, u⟩ := p
    cases l' with
    | nil =>
      have := e k
      simp only [sparseGet, if_true] at this
      exact absurd this (h.2 (k, u) (by simp)).1
    | cons q l' =>
      obtain ⟨k', u'⟩ := q
      have hp := List.pairwise_cons.1 h.1
      have hp' := List.pairwise_cons.1 h'.1
      have hk : k = k' := by
        by_contra hne
        rcases Nat.lt_or_gt_of_ne hne with hlt | hlt
        · have := e k
          simp only [sparseGet, if_true, hne, if_false] at this
          rw [sparseGet_of_unlisted d (fun r hr er => by have := hp'.1 r hr; simp only at this; omega)] at this
          exact (h.2 (k, u) (by simp)).1 this
        · have := e k'
          simp only [sparseGet, if_true, Ne.symm hne, if_false] at this
          rw [sparseGet_of_unlisted d (fun r hr er => by have := hp.1 r hr; simp only at this; omega)] at this
          exact (h'.2 (k', u') (by simp)).1 this.symm
      subst hk
      have hu : u = u' := by simpa [sparseGet] using e k
      subst hu
      congr 1
      refine ih ⟨hp.2, fun r hr => h.2 r (by simp [hr])⟩ ⟨hp'.2, fun r hr => h'.2 r (by simp [hr])⟩ fun a => ?_
      by_cases ha : a = k
      · subst ha
        rw [sparseGet_of_unlisted d (fun r hr er => by have := hp.1 r hr; simp only at this; omega),
          sparseGet_of_unlisted d (fun r hr er => by have := hp'.1 r hr; simp only at this; omega)]
      · simpa [sparseGet, ha] using e a

end Sys2Proof.Machine
end

