-- ==== Sys2Proof/Laws/State.lean ====
section
/-! SUPPORT. One lemma per field per update of State, and what the register accessors read after each update. -/

namespace Sys2Proof.Machine

/-! ### Fields an update leaves alone -/

@[simp] theorem writeX_f (s : State) (i : Reg) (v : Word) : (s.writeX i v).f = s.f := by unfold State.writeX; split <;> rfl
@[simp] theorem writeX_fcsr (s : State) (i : Reg) (v : Word) : (s.writeX i v).fcsr = s.fcsr := by unfold State.writeX; split <;> rfl
@[simp] theorem writeX_csr (s : State) (i : Reg) (v : Word) : (s.writeX i v).csr = s.csr := by unfold State.writeX; split <;> rfl
@[simp] theorem writeX_pc (s : State) (i : Reg) (v : Word) : (s.writeX i v).pc = s.pc := by unfold State.writeX; split <;> rfl
@[simp] theorem writeX_priv (s : State) (i : Reg) (v : Word) : (s.writeX i v).priv = s.priv := by unfold State.writeX; split <;> rfl
@[simp] theorem writeX_halted (s : State) (i : Reg) (v : Word) : (s.writeX i v).halted = s.halted := by unfold State.writeX; split <;> rfl
@[simp] theorem writeX_mem (s : State) (i : Reg) (v : Word) : (s.writeX i v).mem = s.mem := by unfold State.writeX; split <;> rfl
@[simp] theorem writeF_x (s : State) (i : Reg) (v : Word) : (s.writeF i v).x = s.x := rfl
@[simp] theorem writeF_fcsr (s : State) (i : Reg) (v : Word) : (s.writeF i v).fcsr = s.fcsr := rfl
@[simp] theorem writeF_csr (s : State) (i : Reg) (v : Word) : (s.writeF i v).csr = s.csr := rfl
@[simp] theorem writeF_pc (s : State) (i : Reg) (v : Word) : (s.writeF i v).pc = s.pc := rfl
@[simp] theorem writeF_priv (s : State) (i : Reg) (v : Word) : (s.writeF i v).priv = s.priv := rfl
@[simp] theorem writeF_halted (s : State) (i : Reg) (v : Word) : (s.writeF i v).halted = s.halted := rfl
@[simp] theorem writeF_mem (s : State) (i : Reg) (v : Word) : (s.writeF i v).mem = s.mem := rfl
@[simp] theorem writeS_x (s : State) (i : Reg) (w : Word32) : (s.writeS i w).x = s.x := rfl
@[simp] theorem writeS_fcsr (s : State) (i : Reg) (w : Word32) : (s.writeS i w).fcsr = s.fcsr := rfl
@[simp] theorem writeS_csr (s : State) (i : Reg) (w : Word32) : (s.writeS i w).csr = s.csr := rfl
@[simp] theorem writeS_pc (s : State) (i : Reg) (w : Word32) : (s.writeS i w).pc = s.pc := rfl
@[simp] theorem writeS_priv (s : State) (i : Reg) (w : Word32) : (s.writeS i w).priv = s.priv := rfl
@[simp] theorem writeS_halted (s : State) (i : Reg) (w : Word32) : (s.writeS i w).halted = s.halted := rfl
@[simp] theorem writeS_mem (s : State) (i : Reg) (w : Word32) : (s.writeS i w).mem = s.mem := rfl
@[simp] theorem writeCsr_x (s : State) (a : CsrIndex) (v : Word) : (s.writeCsr a v).x = s.x := rfl
@[simp] theorem writeCsr_f (s : State) (a : CsrIndex) (v : Word) : (s.writeCsr a v).f = s.f := rfl
@[simp] theorem writeCsr_fcsr (s : State) (a : CsrIndex) (v : Word) : (s.writeCsr a v).fcsr = s.fcsr := rfl
@[simp] theorem writeCsr_pc (s : State) (a : CsrIndex) (v : Word) : (s.writeCsr a v).pc = s.pc := rfl
@[simp] theorem writeCsr_priv (s : State) (a : CsrIndex) (v : Word) : (s.writeCsr a v).priv = s.priv := rfl
@[simp] theorem writeCsr_halted (s : State) (a : CsrIndex) (v : Word) : (s.writeCsr a v).halted = s.halted := rfl
@[simp] theorem writeCsr_mem (s : State) (a : CsrIndex) (v : Word) : (s.writeCsr a v).mem = s.mem := rfl
@[simp] theorem jumpTo_x (s : State) (target : Word) : (s.jumpTo target).x = s.x := rfl
@[simp] theorem jumpTo_f (s : State) (target : Word) : (s.jumpTo target).f = s.f := rfl
@[simp] theorem jumpTo_fcsr (s : State) (target : Word) : (s.jumpTo target).fcsr = s.fcsr := rfl
@[simp] theorem jumpTo_csr (s : State) (target : Word) : (s.jumpTo target).csr = s.csr := rfl
@[simp] theorem jumpTo_priv (s : State) (target : Word) : (s.jumpTo target).priv = s.priv := rfl
@[simp] theorem jumpTo_halted (s : State) (target : Word) : (s.jumpTo target).halted = s.halted := rfl
@[simp] theorem jumpTo_mem (s : State) (target : Word) : (s.jumpTo target).mem = s.mem := rfl
@[simp] theorem advance_x (s : State) : (advance s).x = s.x := rfl
@[simp] theorem advance_f (s : State) : (advance s).f = s.f := rfl
@[simp] theorem advance_fcsr (s : State) : (advance s).fcsr = s.fcsr := rfl
@[simp] theorem advance_csr (s : State) : (advance s).csr = s.csr := rfl
@[simp] theorem advance_priv (s : State) : (advance s).priv = s.priv := rfl
@[simp] theorem advance_halted (s : State) : (advance s).halted = s.halted := rfl
@[simp] theorem advance_mem (s : State) : (advance s).mem = s.mem := rfl
@[simp] theorem clamp_f (s : State) : (clamp s).f = s.f := rfl
@[simp] theorem clamp_fcsr (s : State) : (clamp s).fcsr = s.fcsr := rfl
@[simp] theorem clamp_csr (s : State) : (clamp s).csr = s.csr := rfl
@[simp] theorem clamp_pc (s : State) : (clamp s).pc = s.pc := rfl
@[simp] theorem clamp_priv (s : State) : (clamp s).priv = s.priv := rfl
@[simp] theorem clamp_halted (s : State) : (clamp s).halted = s.halted := rfl
@[simp] theorem clamp_mem (s : State) : (clamp s).mem = s.mem := rfl
@[simp] theorem halt_x (s : State) (c : Fault) : (halt c s).x = s.x := rfl
@[simp] theorem halt_f (s : State) (c : Fault) : (halt c s).f = s.f := rfl
@[simp] theorem halt_fcsr (s : State) (c : Fault) : (halt c s).fcsr = s.fcsr := rfl
@[simp] theorem halt_csr (s : State) (c : Fault) : (halt c s).csr = s.csr := rfl
@[simp] theorem halt_pc (s : State) (c : Fault) : (halt c s).pc = s.pc := rfl
@[simp] theorem halt_priv (s : State) (c : Fault) : (halt c s).priv = s.priv := rfl
@[simp] theorem halt_mem (s : State) (c : Fault) : (halt c s).mem = s.mem := rfl

/-! ### Fields an update writes -/

@[simp] theorem writeF_f (s : State) (i : Reg) (v : Word) : (s.writeF i v).f = s.f.set i.val v := rfl
@[simp] theorem writeCsr_csr (s : State) (a : CsrIndex) (v : Word) :
    (s.writeCsr a v).csr = sparsePut 0 a.toNat v s.csr := rfl
@[simp] theorem jumpTo_pc (s : State) (t : Word) : (s.jumpTo t).pc = t - 4 := rfl
@[simp] theorem advance_pc (s : State) : (advance s).pc = s.pc + 4 := rfl
@[simp] theorem clamp_x (s : State) : (clamp s).x = s.x.set 0 0 := rfl
@[simp] theorem halt_halted (s : State) (c : Fault) : (halt c s).halted = some c := rfl
@[simp] theorem writeX_zero (s : State) (v : Word) : s.writeX 0 v = s := rfl

/-! ### Reading registers -/

@[simp] theorem readX_zero (s : State) : s.readX 0 = 0 := rfl

/-- What the integer file reads after a write: the value at the destination, unless the destination is register 0. -/
@[simp] theorem readX_writeX (s : State) (i r : Reg) (v : Word) :
    (s.writeX i v).readX r = if r = i ∧ i ≠ 0 then v else s.readX r := by
  by_cases hr : r = 0
  · subst hr; simp only [readX_zero, ne_eq]; split
    · rename_i h; exact absurd h.1.symm h.2
    · rfl
  · by_cases hi : i = 0
    · subst hi; simp
    · simp only [State.readX, State.writeX, hr, hi, if_false, Vector.getElem_set, ne_eq, not_false_eq_true, and_true]
      simp only [Fin.ext_iff, eq_comm]

@[simp] theorem readF_writeF (s : State) (i r : Reg) (v : Word) :
    (s.writeF i v).readF r = if r = i then v else s.readF r := by
  simp only [State.readF, State.writeF, Vector.getElem_set, Fin.ext_iff, eq_comm]

@[simp] theorem readF_writeS (s : State) (i r : Reg) (w : Word32) :
    (s.writeS i w).readF r = if r = i then box w else s.readF r := readF_writeF s i r (box w)

@[simp] theorem unbox_box (w : Word32) : unbox (box w) = w := by
  apply BitVec.eq_of_getLsbD_eq
  intro i hi
  have h : (0xFFFFFFFF#32 ++ w : BitVec (32 + 32)).getLsbD i = w.getLsbD i := by
    rw [BitVec.getLsbD_append]; simp [hi]
  simp only [unbox, BitVec.getLsbD_extractLsb', hi, decide_true, Bool.true_and, Nat.zero_add]
  exact h

@[simp] theorem readS_writeS (s : State) (i r : Reg) (w : Word32) :
    (s.writeS i w).readS r = if r = i then w else s.readS r := by
  unfold State.readS; rw [readF_writeS]; split <;> simp

@[simp] theorem readF_writeX (s : State) (i : Reg) (v : Word) (r : Reg) : (s.writeX i v).readF r = s.readF r := by unfold State.readF; rw [writeX_f]
@[simp] theorem readS_writeX (s : State) (i : Reg) (v : Word) (r : Reg) : (s.writeX i v).readS r = s.readS r := by unfold State.readS; rw [readF_writeX]
@[simp] theorem readCsr_writeX (s : State) (i : Reg) (v : Word) (k : CsrIndex) : (s.writeX i v).readCsr k = s.readCsr k := by unfold State.readCsr; rw [writeX_csr]
@[simp] theorem readX_writeF (s : State) (i : Reg) (v : Word) (r : Reg) : (s.writeF i v).readX r = s.readX r := rfl
@[simp] theorem readCsr_writeF (s : State) (i : Reg) (v : Word) (k : CsrIndex) : (s.writeF i v).readCsr k = s.readCsr k := rfl
@[simp] theorem readX_writeS (s : State) (i : Reg) (w : Word32) (r : Reg) : (s.writeS i w).readX r = s.readX r := rfl
@[simp] theorem readCsr_writeS (s : State) (i : Reg) (w : Word32) (k : CsrIndex) : (s.writeS i w).readCsr k = s.readCsr k := rfl
@[simp] theorem readX_writeCsr (s : State) (a : CsrIndex) (v : Word) (r : Reg) : (s.writeCsr a v).readX r = s.readX r := rfl
@[simp] theorem readF_writeCsr (s : State) (a : CsrIndex) (v : Word) (r : Reg) : (s.writeCsr a v).readF r = s.readF r := rfl
@[simp] theorem readS_writeCsr (s : State) (a : CsrIndex) (v : Word) (r : Reg) : (s.writeCsr a v).readS r = s.readS r := rfl
@[simp] theorem readX_jumpTo (s : State) (target : Word) (r : Reg) : (s.jumpTo target).readX r = s.readX r := rfl
@[simp] theorem readF_jumpTo (s : State) (target : Word) (r : Reg) : (s.jumpTo target).readF r = s.readF r := rfl
@[simp] theorem readS_jumpTo (s : State) (target : Word) (r : Reg) : (s.jumpTo target).readS r = s.readS r := rfl
@[simp] theorem readCsr_jumpTo (s : State) (target : Word) (k : CsrIndex) : (s.jumpTo target).readCsr k = s.readCsr k := rfl
@[simp] theorem readX_advance (s : State) (r : Reg) : (advance s).readX r = s.readX r := rfl
@[simp] theorem readF_advance (s : State) (r : Reg) : (advance s).readF r = s.readF r := rfl
@[simp] theorem readS_advance (s : State) (r : Reg) : (advance s).readS r = s.readS r := rfl
@[simp] theorem readCsr_advance (s : State) (k : CsrIndex) : (advance s).readCsr k = s.readCsr k := rfl
@[simp] theorem readF_clamp (s : State) (r : Reg) : (clamp s).readF r = s.readF r := rfl
@[simp] theorem readS_clamp (s : State) (r : Reg) : (clamp s).readS r = s.readS r := rfl
@[simp] theorem readCsr_clamp (s : State) (k : CsrIndex) : (clamp s).readCsr k = s.readCsr k := rfl
@[simp] theorem readX_halt (s : State) (c : Fault) (r : Reg) : (halt c s).readX r = s.readX r := rfl
@[simp] theorem readF_halt (s : State) (c : Fault) (r : Reg) : (halt c s).readF r = s.readF r := rfl
@[simp] theorem readS_halt (s : State) (c : Fault) (r : Reg) : (halt c s).readS r = s.readS r := rfl
@[simp] theorem readCsr_halt (s : State) (c : Fault) (k : CsrIndex) : (halt c s).readCsr k = s.readCsr k := rfl

/-- The clamp is never observed: register 0 reads 0 with or without it. -/
@[simp] theorem readX_clamp (s : State) (r : Reg) : (clamp s).readX r = s.readX r := by
  unfold State.readX
  split
  · rfl
  · rename_i h
    have : (0 : Nat) ≠ r.val := fun e => h (Fin.ext e.symm)
    simp [this]

/-- A write keeps slot 0: the write to register 0 is discarded. -/
theorem writeX_x0 (s : State) (i : Reg) (v : Word) : (s.writeX i v).x[0] = s.x[0] := by
  unfold State.writeX
  split
  · rfl
  · rename_i h
    have : i.val ≠ 0 := fun e => h (Fin.ext e)
    simp [this]

@[simp] theorem clamp_x0 (s : State) : (clamp s).x[0] = 0 := by simp [clamp]

/-! ### Updates that store a new buffer -/

@[simp] theorem withMem_x (s : State) (m : Memory) : (({ s with mem := m } : State)).x = s.x := rfl
@[simp] theorem withMem_f (s : State) (m : Memory) : (({ s with mem := m } : State)).f = s.f := rfl
@[simp] theorem withMem_fcsr (s : State) (m : Memory) : (({ s with mem := m } : State)).fcsr = s.fcsr := rfl
@[simp] theorem withMem_csr (s : State) (m : Memory) : (({ s with mem := m } : State)).csr = s.csr := rfl
@[simp] theorem withMem_pc (s : State) (m : Memory) : (({ s with mem := m } : State)).pc = s.pc := rfl
@[simp] theorem withMem_priv (s : State) (m : Memory) : (({ s with mem := m } : State)).priv = s.priv := rfl
@[simp] theorem withMem_halted (s : State) (m : Memory) : (({ s with mem := m } : State)).halted = s.halted := rfl
@[simp] theorem withMem_mem (s : State) (m : Memory) : ({ s with mem := m } : State).mem = m := rfl
@[simp] theorem readX_withMem (s : State) (m : Memory) (r : Reg) : ({ s with mem := m } : State).readX r = s.readX r := rfl
@[simp] theorem readF_withMem (s : State) (m : Memory) (r : Reg) : ({ s with mem := m } : State).readF r = s.readF r := rfl
@[simp] theorem readS_withMem (s : State) (m : Memory) (r : Reg) : ({ s with mem := m } : State).readS r = s.readS r := rfl
@[simp] theorem readCsr_withMem (s : State) (m : Memory) (r : CsrIndex) : ({ s with mem := m } : State).readCsr r = s.readCsr r := rfl

/-! ### Reset -/

@[simp] theorem resetWith_f (p : ResetParams) : (State.resetWith p).f = p.fregReset := rfl
@[simp] theorem resetWith_fcsr (p : ResetParams) : (State.resetWith p).fcsr = 0 := rfl
@[simp] theorem resetWith_csr (p : ResetParams) : (State.resetWith p).csr = [] := rfl
@[simp] theorem resetWith_pc (p : ResetParams) : (State.resetWith p).pc = Config.resetPc := rfl
@[simp] theorem resetWith_priv (p : ResetParams) : (State.resetWith p).priv = .machine := rfl
@[simp] theorem resetWith_halted (p : ResetParams) : (State.resetWith p).halted = none := rfl
@[simp] theorem resetWith_mem (p : ResetParams) : (State.resetWith p).mem = p.mem := rfl

/-- R41: every integer register is 0 at reset but x2, which holds SP_DEFAULT. -/
@[simp] theorem readX_resetWith (p : ResetParams) (r : Reg) :
    (State.resetWith p).readX r = if r = 2 then p.spDefault else 0 := by
  unfold State.readX State.resetWith
  by_cases h0 : r = 0
  · subst h0; simp
  · rw [if_neg h0]
    simp only [Vector.getElem_set, Vector.getElem_replicate]
    simp only [Fin.ext_iff, eq_comm]
    rfl

end Sys2Proof.Machine
end

