-- ==== Sys2Proof/Laws/Memory.lean ====
section
/-! SUPPORT. Laws of the buffer: read after write, the bytes a write leaves alone, and that every memory operation keeps
the size and the canonical form. -/

namespace Sys2Proof.Machine

/-! ### One byte -/

@[simp] theorem setByte_size (m : Memory) (a : Nat) (v : Byte) : (m.setByte a v).size = m.size := rfl

@[simp] theorem byte_setByte (m : Memory) (a b : Nat) (v : Byte) :
    (m.setByte a v).byte b = if b = a then v else m.byte b := sparseGet_put _ _ _ _ _

theorem setByte_wf {m : Memory} {a : Nat} (v : Byte) (ha : a < m.size) (h : m.wf) : (m.setByte a v).wf :=
  sparseWf_put v ha h

theorem Memory.ext_byte {m m' : Memory} (h : m.wf) (h' : m'.wf) (hs : m.size = m'.size)
    (e : ∀ a, m.byte a = m'.byte a) : m = m' := by
  cases m; cases m'
  obtain rfl := Fin.ext hs
  congr 1; exact sparse_ext h h' e

/-! ### A window of bytes -/

@[simp] theorem setBytes_size (m : Memory) (a n : Nat) (v : Word) : (m.setBytes a n v).size = m.size := by
  induction n generalizing m a v with
  | zero => rfl
  | succ n ih => simp [Memory.setBytes, ih]

theorem extract_shift (v : Word) (k : Nat) : (v >>> 8).extractLsb' (8 * k) 8 = v.extractLsb' (8 * (k + 1)) 8 := by
  apply BitVec.eq_of_getLsbD_eq
  intro i hi
  simp only [BitVec.getLsbD_extractLsb', BitVec.getLsbD_ushiftRight]
  congr 2; omega

/-- R52: the bytes a store writes, and every other byte as before. -/
theorem byte_setBytes (m : Memory) (a n : Nat) (v : Word) (b : Nat) :
    (m.setBytes a n v).byte b = if a ≤ b ∧ b < a + n then v.extractLsb' (8 * (b - a)) 8 else m.byte b := by
  induction n generalizing m a v with
  | zero => simp only [Memory.setBytes]; rw [if_neg (by omega)]
  | succ n ih =>
    simp only [Memory.setBytes, ih, byte_setByte]
    by_cases h1 : a + 1 ≤ b ∧ b < a + 1 + n
    · rw [if_pos h1, if_pos (by omega), extract_shift]; congr 2; omega
    · rw [if_neg h1]
      by_cases h2 : b = a
      · subst h2; simp
      · rw [if_neg h2, if_neg (by omega)]

theorem byte_setBytes_outside (m : Memory) (a n : Nat) (v : Word) {b : Nat} (h : b < a ∨ a + n ≤ b) :
    (m.setBytes a n v).byte b = m.byte b := by rw [byte_setBytes, if_neg (by omega)]

theorem setBytes_wf {m : Memory} {a n : Nat} (v : Word) (ha : a + n ≤ m.size) (h : m.wf) : (m.setBytes a n v).wf := by
  induction n generalizing m a v with
  | zero => exact h
  | succ n ih => exact ih _ (by simp; omega) (setByte_wf _ (by omega) h)

theorem leValue_lt (m : Memory) (a n : Nat) : m.leValue a n < 256 ^ n := by
  induction n generalizing a with
  | zero => simp [Memory.leValue]
  | succ n ih =>
    have := ih (a + 1)
    have hb := (m.byte a).isLt
    simp only [Memory.leValue, pow_succ]
    omega

/-- The value of a window depends on its own bytes only. -/
theorem leValue_congr {m m' : Memory} {a n : Nat} (h : ∀ b, a ≤ b → b < a + n → m.byte b = m'.byte b) :
    m.leValue a n = m'.leValue a n := by
  induction n generalizing a with
  | zero => rfl
  | succ n ih =>
    simp only [Memory.leValue]
    rw [h a (by omega) (by omega), ih (fun b h1 h2 => h b (by omega) (by omega))]

theorem leValue_setBytes (m : Memory) (a n : Nat) (v : Word) :
    (m.setBytes a n v).leValue a n = v.toNat % 256 ^ n := by
  induction n generalizing m a v with
  | zero => simp [Memory.leValue, Nat.mod_one]
  | succ n ih =>
    simp only [Memory.setBytes, Memory.leValue]
    rw [ih, byte_setBytes_outside _ _ _ _ (by omega), byte_setByte, if_pos rfl]
    simp only [BitVec.extractLsb'_toNat, BitVec.toNat_ushiftRight, Nat.shiftRight_eq_div_pow, pow_zero, Nat.div_one]
    exact (pow_succ' 256 n ▸ Nat.mod_mul (x := v.toNat) (a := 256) (b := 256 ^ n)).symm

/-- Byte i of the value of a window is the byte at its i-th address (R52). -/
theorem leValue_byte (m : Memory) (a n i : Nat) (hi : i < n) :
    m.leValue a n / 256 ^ i % 256 = (m.byte (a + i)).toNat := by
  induction n generalizing a i with
  | zero => omega
  | succ n ih =>
    have hb := (m.byte a).isLt
    cases i with
    | zero => simp only [Memory.leValue, pow_zero, Nat.div_one, Nat.add_zero]; omega
    | succ i =>
      have h1 : m.leValue a (n + 1) / 256 ^ (i + 1) = m.leValue (a + 1) n / 256 ^ i := by
        rw [pow_succ', ← Nat.div_div_eq_div_mul]; congr 1; simp only [Memory.leValue]; omega
      rw [h1, ih (a + 1) i (by omega)]
      congr 2; omega

/-! ### The interface (R50 to R56) -/

theorem Width.bytes_le (w : Width) : w.bytes ≤ 8 := by cases w <;> decide

theorem Width.bytes_pos (w : Width) : 0 < w.bytes := by cases w <;> decide

theorem pow_bytes_le (w : Width) : 256 ^ w.bytes ≤ 2 ^ 64 := by cases w <;> decide

theorem inside_iff (m : Memory) (addr : Word) (w : Width) :
    m.inside addr w = true ↔ addr.toNat + w.bytes ≤ m.size := by simp [Memory.inside]

theorem Memory.size_le (m : Memory) : m.size ≤ 2 ^ 64 - 2048 := Nat.le_of_lt_succ m.limit.isLt

/-- A window that ends beyond the largest buffer is outside every buffer. -/
theorem outside_of_beyond (m : Memory) {addr : Word} {w : Width} (h : 2 ^ 64 - 2048 < addr.toNat + w.bytes) :
    m.inside addr w = false := by
  have := m.size_le
  rw [Bool.eq_false_iff, Ne, inside_iff]
  omega

/-- A window that would wrap past 2^64 is outside every buffer (R56, R343). -/
theorem outside_of_wrap (m : Memory) {addr : Word} {w : Width} (h : 2 ^ 64 < addr.toNat + w.bytes) :
    m.inside addr w = false := outside_of_beyond m (by omega)

/-- The top 2048 addresses are outside every buffer (R200). -/
theorem outside_of_top (m : Memory) {addr : Word} (w : Width) (h : 2 ^ 64 - 2048 ≤ addr.toNat) :
    m.inside addr w = false := outside_of_beyond m (by have := w.bytes_pos; omega)

/-- rs1 = x0 with a negative displacement addresses the top 2048, outside every buffer (R200). -/
theorem outside_of_negative (m : Memory) {imm : Word} (w : Width) (h1 : -2048 ≤ imm.toInt) (h2 : imm.toInt < 0) :
    m.inside imm w = false := by
  refine outside_of_top m w ?_
  rw [BitVec.toInt_eq_toNat_cond] at h1 h2
  split at h1 <;> omega

theorem read_inside {m : Memory} {addr : Word} {w : Width} (h : m.inside addr w = true) :
    m.read addr w = some (BitVec.ofNat 64 (m.leValue addr.toNat w.bytes)) := by simp [Memory.read, h]

theorem read_outside {m : Memory} {addr : Word} {w : Width} (h : m.inside addr w = false) :
    m.read addr w = none := by simp [Memory.read, h]

theorem read_eq_some {m : Memory} {addr : Word} {w : Width} {v : Word} (h : m.read addr w = some v) :
    m.inside addr w = true ∧ v = BitVec.ofNat 64 (m.leValue addr.toNat w.bytes) := by
  unfold Memory.read at h; split at h
  · exact ⟨‹_›, (Option.some.inj h).symm⟩
  · cases h

theorem write_inside {m : Memory} {addr : Word} {w : Width} (v : Word) (h : m.inside addr w = true) :
    m.write addr w v = some (m.setBytes addr.toNat w.bytes v) := by simp [Memory.write, h]

theorem write_outside {m : Memory} {addr : Word} {w : Width} (v : Word) (h : m.inside addr w = false) :
    m.write addr w v = none := by simp [Memory.write, h]

theorem write_eq_some {m m' : Memory} {addr : Word} {w : Width} {v : Word} (h : m.write addr w v = some m') :
    m.inside addr w = true ∧ m' = m.setBytes addr.toNat w.bytes v := by
  unfold Memory.write at h; split at h
  · exact ⟨‹_›, (Option.some.inj h).symm⟩
  · cases h

theorem write_size {m m' : Memory} {addr : Word} {w : Width} {v : Word} (h : m.write addr w v = some m') :
    m'.size = m.size := by rw [(write_eq_some h).2, setBytes_size]

theorem write_wf {m m' : Memory} {addr : Word} {w : Width} {v : Word} (h : m.write addr w v = some m') (hm : m.wf) :
    m'.wf := by
  obtain ⟨hi, rfl⟩ := write_eq_some h
  exact setBytes_wf v ((inside_iff m addr w).1 hi) hm

theorem write_byte_outside {m m' : Memory} {addr : Word} {w : Width} {v : Word} (h : m.write addr w v = some m')
    {b : Nat} (hb : b < addr.toNat ∨ addr.toNat + w.bytes ≤ b) : m'.byte b = m.byte b := by
  rw [(write_eq_some h).2, byte_setBytes_outside _ _ _ _ hb]

theorem leValue_toNat (m : Memory) (a : Nat) (w : Width) :
    (BitVec.ofNat 64 (m.leValue a w.bytes)).toNat = m.leValue a w.bytes := by
  rw [BitVec.toNat_ofNat, Nat.mod_eq_of_lt (Nat.lt_of_lt_of_le (leValue_lt m a _) (pow_bytes_le w))]

/-- Read after write at the same window: the low bytes of the value written (R65). -/
theorem read_write_same {m m' : Memory} {addr : Word} {w : Width} {v : Word} (h : m.write addr w v = some m') :
    m'.read addr w = some (BitVec.ofNat 64 (v.toNat % 256 ^ w.bytes)) := by
  obtain ⟨hi, rfl⟩ := write_eq_some h
  rw [read_inside (by simpa [Memory.inside] using hi), leValue_setBytes]

/-- A disjoint window reads as before. -/
theorem read_write_disjoint {m m' : Memory} {addr a : Word} {w w' : Width} {v : Word} (h : m.write addr w v = some m')
    (hd : a.toNat + w'.bytes ≤ addr.toNat ∨ addr.toNat + w.bytes ≤ a.toNat) : m'.read a w' = m.read a w' := by
  obtain ⟨-, rfl⟩ := write_eq_some h
  unfold Memory.read Memory.inside
  rw [setBytes_size, leValue_congr (m' := m) (fun b h1 h2 => byte_setBytes_outside _ _ _ _ (by omega))]

/-! ### Loading and placing -/

@[simp] theorem copyIn_size (m : Memory) (a : Nat) (bs : List Byte) : (m.copyIn a bs).size = m.size := by
  induction bs generalizing m a with
  | nil => rfl
  | cons b bs ih => simp [Memory.copyIn, ih]

theorem copyIn_wf {m : Memory} {a : Nat} {bs : List Byte} (ha : a + bs.length ≤ m.size) (h : m.wf) :
    (m.copyIn a bs).wf := by
  induction bs generalizing m a with
  | nil => exact h
  | cons b bs ih =>
    rw [List.length_cons] at ha
    exact ih (by simp; omega) (setByte_wf _ (by omega) h)

theorem byte_copyIn (m : Memory) (a : Nat) (bs : List Byte) (b : Nat) :
    (m.copyIn a bs).byte b = if a ≤ b then (bs[b - a]?).getD (m.byte b) else m.byte b := by
  induction bs generalizing m a with
  | nil => simp [Memory.copyIn]
  | cons c bs ih =>
    simp only [Memory.copyIn, ih, byte_setByte]
    by_cases h1 : a + 1 ≤ b
    · have h2 : b - a = (b - (a + 1)) + 1 := by omega
      have hne : b ≠ a := by omega
      have hle : a ≤ b := by omega
      rw [if_pos h1, if_pos hle, if_neg hne, h2, List.getElem?_cons_succ]
    · rw [if_neg h1]
      by_cases h2 : b = a
      · subst h2; simp
      · rw [if_neg h2, if_neg (by omega)]

theorem placeWord_wf {m : Memory} (addr : Word) (w : Word32) (h : m.wf) : (m.placeWord addr w).wf := by
  unfold Memory.placeWord
  split
  · exact setBytes_wf _ (Nat.le_max_right _ _) (sparseWf_mono (Nat.le_max_left _ _) h)
  · exact h

/-- The window a placed word occupies reads as the word, at every address where a fetch is possible in some buffer. -/
theorem read_placeWord (m : Memory) {addr : Word} (w : Word32) (h : addr.toNat + 4 ≤ Config.maxMemSize) :
    (m.placeWord addr w).read addr .word = some (zext64 w) := by
  rw [Memory.placeWord, dif_pos h, read_inside ((inside_iff ..).2 (by rw [setBytes_size]; exact Nat.le_max_right _ _))]
  simp only [Width.bytes, leValue_setBytes]
  congr 1
  apply BitVec.eq_of_toNat_eq
  have := w.isLt
  simp only [zext64, BitVec.toNat_ofNat, BitVec.toNat_setWidth]
  omega

theorem reset_mem_wf : State.reset.mem.wf := by decide

end Sys2Proof.Machine
end

