-- ==== Sys2Proof/Laws/Ops.lean ====
section
/-! SUPPORT. What each shared operation can do, said once; what an instruction can do (`Effect`); and the inversion of the
step. Later proofs cite these instead of unfolding the operations. -/

namespace Sys2Proof.Machine

/-! ### Shared operations that always complete -/

@[simp] theorem putX_eq (rd : Reg) (v : Word) (s : State) : putX rd v s = .next (s.writeX rd v) := rfl
@[simp] theorem putS_eq (rd : Reg) (w : Word32) (s : State) : putS rd w s = .next (s.writeS rd w) := rfl
@[simp] theorem jumpLink_eq (rd : Reg) (target : Word) (s : State) :
    jumpLink rd target s = .next ((s.writeX rd (s.pc + 4)).jumpTo target) := rfl
@[simp] theorem branch_taken (k : Word) (s : State) : branch true k s = .next (s.jumpTo (s.pc + (k <<< 1))) := rfl
@[simp] theorem branch_not_taken (k : Word) (s : State) : branch false k s = .next s := rfl
@[simp] theorem csrAccess_writes (rd : Reg) (a : CsrIndex) (new : Word → Word) (s : State) :
    csrAccess rd a true new s = .next ((s.writeCsr a (new (s.readCsr a))).writeX rd (s.readCsr a)) := rfl
@[simp] theorem csrAccess_reads (rd : Reg) (a : CsrIndex) (new : Word → Word) (s : State) :
    csrAccess rd a false new s = .next (s.writeX rd (s.readCsr a)) := rfl

/-- A CSR entry read after a write. -/
@[simp] theorem readCsr_writeCsr (s : State) (a b : CsrIndex) (v : Word) :
    (s.writeCsr a v).readCsr b = if b = a then v else s.readCsr b := by
  unfold State.readCsr State.writeCsr
  rw [sparseGet_put]
  simp only [BitVec.toNat_inj]

/-! ### Memory operations: complete inside the buffer, MemoryFault outside -/

theorem loadX_inside {w : Width} {addr : Word} {s : State} (ext : Word → Word) (rd : Reg)
    (h : s.mem.inside addr w = true) :
    loadX w ext rd addr s = .next (s.writeX rd (ext (BitVec.ofNat 64 (s.mem.leValue addr.toNat w.bytes)))) := by
  simp [loadX, read_inside h]

theorem loadX_outside {w : Width} {addr : Word} {s : State} (ext : Word → Word) (rd : Reg)
    (h : s.mem.inside addr w = false) : loadX w ext rd addr s = .fault (.memoryFault addr w) := by
  simp [loadX, read_outside h, raise]

theorem loadS_inside {addr : Word} {s : State} (rd : Reg) (h : s.mem.inside addr .word = true) :
    loadS rd addr s = .next (s.writeS rd ((BitVec.ofNat 64 (s.mem.leValue addr.toNat 4)).setWidth 32)) := by
  simp [loadS, read_inside h, Width.bytes]

theorem loadS_outside {addr : Word} {s : State} (rd : Reg) (h : s.mem.inside addr .word = false) :
    loadS rd addr s = .fault (.memoryFault addr .word) := by
  simp [loadS, read_outside h, raise]

theorem store_inside {w : Width} {addr : Word} {s : State} (v : Word) (h : s.mem.inside addr w = true) :
    store w addr v s = .next { s with mem := s.mem.setBytes addr.toNat w.bytes v } := by
  simp [store, write_inside v h]

theorem store_outside {w : Width} {addr : Word} {s : State} (v : Word) (h : s.mem.inside addr w = false) :
    store w addr v s = .fault (.memoryFault addr w) := by
  simp [store, write_outside v h, raise]

theorem storeCond_inside {w : Width} {addr : Word} {s : State} (rd : Reg) (v : Word)
    (h : s.mem.inside addr w = true) :
    storeCond w rd addr v s = .next (State.writeX { s with mem := s.mem.setBytes addr.toNat w.bytes v } rd 0) := by
  simp [storeCond, write_inside v h]

theorem storeCond_outside {w : Width} {addr : Word} {s : State} (rd : Reg) (v : Word)
    (h : s.mem.inside addr w = false) : storeCond w rd addr v s = .fault (.memoryFault addr w) := by
  simp [storeCond, write_outside v h, raise]

theorem amo_inside {w : Width} {L : Nat} {s : State} (op : BitVec L → BitVec L → BitVec L) (rd rs1 rs2 : Reg)
    (h : s.mem.inside (s.readX rs1) w = true) :
    amo w L op rd rs1 rs2 s =
      let old := (BitVec.ofNat 64 (s.mem.leValue (s.readX rs1).toNat w.bytes)).setWidth L
      .next (State.writeX
        { s with mem := s.mem.setBytes (s.readX rs1).toNat w.bytes (zext64 (op old ((s.readX rs2).setWidth L))) }
        rd (sext64 old)) := by
  simp [amo, read_inside h, write_inside _ h]

theorem amo_outside {w : Width} {L : Nat} {s : State} (op : BitVec L → BitVec L → BitVec L) (rd rs1 rs2 : Reg)
    (h : s.mem.inside (s.readX rs1) w = false) :
    amo w L op rd rs1 rs2 s = .fault (.memoryFault (s.readX rs1) w) := by
  simp [amo, read_outside h, raise]

/-! ### What an instruction can do -/

/-- Every next state an execute phase can answer, as one of eight shapes. A jump keeps an even pc even, given the even
offset of a well-formed JAL. -/
inductive Effect (i : Instr) (s : State) : State → Prop where
  | nothing : Effect i s s
  | putX (rd : Reg) (v : Word) : Effect i s (s.writeX rd v)
  | putS (rd : Reg) (w : Word32) : Effect i s (s.writeS rd w)
  | store (addr : Word) (w : Width) (v : Word) (m : Memory) (h : s.mem.write addr w v = some m) :
      Effect i s { s with mem := m }
  | storePut (addr : Word) (w : Width) (v : Word) (m : Memory) (rd : Reg) (u : Word)
      (h : s.mem.write addr w v = some m) : Effect i s (State.writeX { s with mem := m } rd u)
  | csr (rd : Reg) (a : CsrIndex) (v u : Word) : Effect i s ((s.writeCsr a v).writeX rd u)
  | jump (rd : Reg) (target link : Word)
      (even : i.wf = true → s.pc.getLsbD 0 = false → target.getLsbD 0 = false) :
      Effect i s ((s.writeX rd link).jumpTo target)
  | branch (target : Word) (even : i.wf = true → s.pc.getLsbD 0 = false → target.getLsbD 0 = false) :
      Effect i s (s.jumpTo target)

theorem getLsbD_zero_add (a b : Word) : (a + b).getLsbD 0 = (a.getLsbD 0 ^^ b.getLsbD 0) := by
  rw [BitVec.getLsbD_add (by decide), BitVec.carry_zero, Bool.xor_false]

theorem putX_effect {i : Instr} {s t : State} {rd : Reg} {v : Word} (h : putX rd v s = .next t) : Effect i s t := by
  cases h; exact .putX rd v

theorem putS_effect {i : Instr} {s t : State} {rd : Reg} {w : Word32} (h : putS rd w s = .next t) : Effect i s t := by
  cases h; exact .putS rd w

theorem loadX_effect {i : Instr} {s t : State} {w : Width} {ext : Word → Word} {rd : Reg} {addr : Word}
    (h : loadX w ext rd addr s = .next t) : Effect i s t := by
  unfold loadX at h; split at h
  · cases h; exact .putX _ _
  · cases h

theorem loadS_effect {i : Instr} {s t : State} {rd : Reg} {addr : Word} (h : loadS rd addr s = .next t) :
    Effect i s t := by
  unfold loadS at h; split at h
  · cases h; exact .putS _ _
  · cases h

theorem store_effect {i : Instr} {s t : State} {w : Width} {addr v : Word} (h : store w addr v s = .next t) :
    Effect i s t := by
  unfold store at h; split at h
  · cases h; exact .store _ _ _ _ ‹_›
  · cases h

theorem storeCond_effect {i : Instr} {s t : State} {w : Width} {rd : Reg} {addr v : Word}
    (h : storeCond w rd addr v s = .next t) : Effect i s t := by
  unfold storeCond at h; split at h
  · cases h; exact .storePut _ _ _ _ _ _ ‹_›
  · cases h

theorem amo_effect {i : Instr} {s t : State} {w : Width} {L : Nat} {op : BitVec L → BitVec L → BitVec L}
    {rd rs1 rs2 : Reg} (h : amo w L op rd rs1 rs2 s = .next t) : Effect i s t := by
  unfold amo at h; dsimp only at h; split at h
  · cases h
  · split at h
    · cases h
    · cases h; exact .storePut _ _ _ _ _ _ ‹_›

theorem csrAccess_effect {i : Instr} {s t : State} {rd : Reg} {a : CsrIndex} {writes : Bool} {new : Word → Word}
    (h : csrAccess rd a writes new s = .next t) : Effect i s t := by
  cases writes <;> cases h
  · exact .putX _ _
  · exact .csr _ _ _ _

theorem branch_effect {i : Instr} {s t : State} {taken : Bool} {k : Word} (h : branch taken k s = .next t) :
    Effect i s t := by
  cases taken <;> cases h
  · exact .nothing
  · refine .branch _ fun _ hp => ?_
    rw [getLsbD_zero_add, hp]; simp

theorem jumpLink_effect {i : Instr} {s t : State} {rd : Reg} {target : Word}
    (even : i.wf = true → s.pc.getLsbD 0 = false → target.getLsbD 0 = false) (h : jumpLink rd target s = .next t) :
    Effect i s t := by
  cases h; exact .jump _ _ _ even

theorem cvtOfInt_effect {i : Instr} {s t : State} {rm : RmField} {n : Int} {word : Word32} {rd : Reg}
    (h : cvtOfInt rm n word rd s = .next t) : Effect i s t := by
  cases rm <;> first | exact putS_effect h | cases h

/-- The inversion of `exec`: a next state has one of the shapes of `Effect`. -/
theorem exec_effect {i : Instr} {s t : State} (h : exec i s = .next t) : Effect i s t := by
  cases i
  case lui | auipc | addi | slti | sltiu | xori | ori | andi | slli | srli | srai | add | sub | sll | slt | sltu |
      xor | srl | sra | or | and | addiw | slliw | srliw | sraiw | addw | subw | sllw | srlw | sraw | mul | mulh |
      mulhsu | mulhu | div | divu | rem | remu | mulw | divw | divuw | remw | remuw | fcvtWS | fcvtWuS | fcvtLS |
      fcvtLuS | fmvXW | feqS | fltS | fleS | fclassS => simp only [exec] at h; exact putX_effect h
  case jal rd joff =>
    refine jumpLink_effect (fun hw hp => ?_) h
    have hj : joff.getLsbD 0 = false := by simp [Instr.wf] at hw; simpa using hw.2
    rw [getLsbD_zero_add, hp, hj]; rfl
  case jalr rd rs1 imm =>
    refine jumpLink_effect (fun _ _ => ?_) h
    rw [BitVec.getLsbD_and]; simp
  case beq | bne | blt | bge | bltu | bgeu => simp only [exec] at h; exact branch_effect h
  case lb | lh | lw | ld | lbu | lhu | lwu | lrW | lrD => simp only [exec] at h; exact loadX_effect h
  case sb | sh | sw | sd | fsw => simp only [exec] at h; exact store_effect h
  case fence | fenceI => simp only [exec] at h; cases h; exact .nothing
  case csrrw | csrrs | csrrc | csrrwi | csrrsi | csrrci => simp only [exec] at h; exact csrAccess_effect h
  case scW | scD => simp only [exec] at h; exact storeCond_effect h
  case amoswapW | amoaddW | amoxorW | amoandW | amoorW | amominW | amomaxW | amominuW | amomaxuW | amoswapD |
      amoaddD | amoxorD | amoandD | amoorD | amominD | amomaxD | amominuD | amomaxuD => simp only [exec] at h; exact amo_effect h
  case flw => simp only [exec] at h; exact loadS_effect h
  case fmaddS | fmsubS | fnmsubS | fnmaddS | faddS | fsubS | fmulS | fdivS | fsqrtS | fsgnjS | fsgnjnS | fsgnjxS |
      fminS | fmaxS | fmvWX => simp only [exec] at h; exact putS_effect h
  case fcvtSW | fcvtSWu | fcvtSL | fcvtSLu => simp only [exec] at h; exact cvtOfInt_effect h

/-! ### No instruction is refused (R342: every mnemonic has an execution rule) -/

theorem putX_not_refused {rd : Reg} {v : Word} {s : State} {r : Refusal} (h : putX rd v s = .refused r) : False := by
  cases h

theorem putS_not_refused {rd : Reg} {w : Word32} {s : State} {r : Refusal} (h : putS rd w s = .refused r) : False := by
  cases h

theorem loadX_not_refused {w : Width} {ext : Word → Word} {rd : Reg} {addr : Word} {s : State} {r : Refusal}
    (h : loadX w ext rd addr s = .refused r) : False := by
  unfold loadX raise at h; split at h <;> cases h

theorem loadS_not_refused {rd : Reg} {addr : Word} {s : State} {r : Refusal} (h : loadS rd addr s = .refused r) :
    False := by
  unfold loadS raise at h; split at h <;> cases h

theorem store_not_refused {w : Width} {addr v : Word} {s : State} {r : Refusal} (h : store w addr v s = .refused r) :
    False := by
  unfold store raise at h; split at h <;> cases h

theorem storeCond_not_refused {w : Width} {rd : Reg} {addr v : Word} {s : State} {r : Refusal}
    (h : storeCond w rd addr v s = .refused r) : False := by
  unfold storeCond raise at h; split at h <;> cases h

theorem amo_not_refused {w : Width} {L : Nat} {op : BitVec L → BitVec L → BitVec L} {rd rs1 rs2 : Reg} {s : State}
    {r : Refusal} (h : amo w L op rd rs1 rs2 s = .refused r) : False := by
  unfold amo raise at h; dsimp only at h; split at h
  · cases h
  · split at h <;> cases h

theorem csrAccess_not_refused {rd : Reg} {a : CsrIndex} {writes : Bool} {new : Word → Word} {s : State} {r : Refusal}
    (h : csrAccess rd a writes new s = .refused r) : False := by
  cases writes <;> cases h

theorem branch_not_refused {taken : Bool} {k : Word} {s : State} {r : Refusal} (h : branch taken k s = .refused r) :
    False := by
  cases taken <;> cases h

theorem jumpLink_not_refused {rd : Reg} {target : Word} {s : State} {r : Refusal}
    (h : jumpLink rd target s = .refused r) : False := by
  cases h

theorem cvtOfInt_not_refused {rm : RmField} {n : Int} {word : Word32} {rd : Reg} {s : State} {r : Refusal}
    (h : cvtOfInt rm n word rd s = .refused r) : False := by
  cases rm <;> cases h

theorem exec_not_refused (i : Instr) (s : State) (r : Refusal) : exec i s ≠ .refused r := by
  intro h
  cases i
  case lui | auipc | addi | slti | sltiu | xori | ori | andi | slli | srli | srai | add | sub | sll | slt | sltu |
      xor | srl | sra | or | and | addiw | slliw | srliw | sraiw | addw | subw | sllw | srlw | sraw | mul | mulh |
      mulhsu | mulhu | div | divu | rem | remu | mulw | divw | divuw | remw | remuw | fcvtWS | fcvtWuS | fcvtLS |
      fcvtLuS | fmvXW | feqS | fltS | fleS | fclassS => simp only [exec] at h; exact putX_not_refused h
  case jal | jalr => simp only [exec] at h; exact jumpLink_not_refused h
  case beq | bne | blt | bge | bltu | bgeu => simp only [exec] at h; exact branch_not_refused h
  case lb | lh | lw | ld | lbu | lhu | lwu | lrW | lrD => simp only [exec] at h; exact loadX_not_refused h
  case sb | sh | sw | sd | fsw => simp only [exec] at h; exact store_not_refused h
  case fence | fenceI => simp only [exec] at h; cases h
  case csrrw | csrrs | csrrc | csrrwi | csrrsi | csrrci => simp only [exec] at h; exact csrAccess_not_refused h
  case scW | scD => simp only [exec] at h; exact storeCond_not_refused h
  case amoswapW | amoaddW | amoxorW | amoandW | amoorW | amominW | amomaxW | amominuW | amomaxuW | amoswapD |
      amoaddD | amoxorD | amoandD | amoorD | amominD | amomaxD | amominuD | amomaxuD => simp only [exec] at h; exact amo_not_refused h
  case flw => simp only [exec] at h; exact loadS_not_refused h
  case fmaddS | fmsubS | fnmsubS | fnmaddS | faddS | fsubS | fmulS | fdivS | fsqrtS | fsgnjS | fsgnjnS | fsgnjxS |
      fminS | fmaxS | fmvWX => simp only [exec] at h; exact putS_not_refused h
  case fcvtSW | fcvtSWu | fcvtSL | fcvtSLu => simp only [exec] at h; exact cvtOfInt_not_refused h

/-! ### The step -/

/-- The step of a running machine, once the fetch and the decode have delivered an instruction. -/
theorem step_of_decode {s : State} {w : Word32} {i : Instr} (hr : s.halted = none) (hf : fetch s = .ok w)
    (hd : decode w = .ok i) :
    step s = match exec i s with
      | .next t => .next (clamp (advance t))
      | .fault c => .fault c
      | .refused r => .refused r := by
  simp only [step, hr, hf, hd] <;> rfl

/-- The inversion of `step`. -/
theorem step_next {s u : State} (h : step s = .next u) :
    s.halted = none ∧ ∃ w i t, fetch s = .ok w ∧ decode w = .ok i ∧ exec i s = .next t ∧ u = clamp (advance t) := by
  unfold step at h
  split at h
  · cases h
  · refine ⟨‹_›, ?_⟩
    split at h
    · cases h
    · split at h
      · cases h
      · split at h
        · cases h; exact ⟨_, _, _, ‹_›, ‹_›, ‹_›, rfl⟩
        · cases h
        · cases h

theorem step_not_refused (s : State) (r : Refusal) : step s ≠ .refused r := by
  intro h
  unfold step at h
  split at h
  · cases h
  · split at h
    · cases h
    · split at h
      · cases h
      · split at h
        · cases h
        · cases h
        · exact exec_not_refused _ _ _ ‹_›

end Sys2Proof.Machine
end

