-- ==== Sys2Proof/Laws/PerInstr.lean ====
section
/-! SUPPORT. One lemma per instruction: a row of the table accepts its encoding, whatever the ignored bits hold, and reads
the instruction back from it. -/

namespace Sys2Proof.Laws

/-- A row of the table accepts the encoding of `i` with any values in the ignored bits (R117), and makes `i` again from
it when `i` is well-formed. -/
def EncodeRow.Statement (i : Instr) : Prop :=
  ∃ r ∈ rows, ∀ v : Word32, r.accepts (encode i ||| (v &&& ignoredBits i)) = true ∧
    (i.wf = true → r.build (encode i ||| (v &&& ignoredBits i)) = i)

/-! ### One lemma per encoding form -/

theorem ofBits_bits (r : Reg) : Reg.ofBits r.bits = r := rfl

theorem rm_ofBits_bits (m : RmField) : RmField.ofBits m.bits = m := by
  rcases m with m | _ | _ | _ <;> [cases m; skip; skip; skip] <;> decide

theorem or_and_zero (w v : Word32) : w ||| (v &&& 0#32) = w := by simp

/-- The statement through an equal word. -/
theorem via_word {i : Instr} {r : Row} {v w : Word32} (e : encode i ||| (v &&& ignoredBits i) = w)
    (h : r.accepts w = true ∧ (i.wf = true → r.build w = i)) :
    r.accepts (encode i ||| (v &&& ignoredBits i)) = true ∧
      (i.wf = true → r.build (encode i ||| (v &&& ignoredBits i)) = i) := by
  rw [e]; exact h

theorem row_R {r : Row} {mk : Reg → Reg → Reg → Instr} {f7 : BitVec 7} {f3 : BitVec 3} {op : BitVec 7}
    (hm : r.mask = 0xFE00707F#32) (hp : r.pat = place 0 op ||| place 12 f3 ||| place 25 f7)
    (hb : r.build = fun w => mk (rdOf w) (rs1Of w) (rs2Of w)) (rd rs1 rs2 : Reg) :
    r.accepts (encR f7 rs2.bits rs1.bits f3 rd.bits op) = true ∧ r.build (encR f7 rs2.bits rs1.bits f3 rd.bits op) = mk rd rs1 rs2 := by
  constructor
  · simp only [Row.accepts, hm, hp, mask_FE00707F, encR_op, encR_f3, encR_f7, beq_self_eq_true]
  · simp only [hb, rdOf, rs1Of, rs2Of, encR_rd, encR_rs1, encR_rs2, ofBits_bits]

theorem row_Rrm {r : Row} {mk : Reg → Reg → Reg → Instr} {f7 : BitVec 7} {op : BitVec 7}
    (hm : r.mask = 0xFE00007F#32) (hp : r.pat = place 0 op ||| place 25 f7)
    (hb : r.build = fun w => mk (rdOf w) (rs1Of w) (rs2Of w)) (rd rs1 rs2 : Reg) (rm : BitVec 3) :
    r.accepts (encR f7 rs2.bits rs1.bits rm rd.bits op) = true ∧ r.build (encR f7 rs2.bits rs1.bits rm rd.bits op) = mk rd rs1 rs2 := by
  constructor
  · simp only [Row.accepts, hm, hp, mask_FE00007F, encR_op, encR_f7, beq_self_eq_true]
  · simp only [hb, rdOf, rs1Of, rs2Of, encR_rd, encR_rs1, encR_rs2, ofBits_bits]

theorem row_R1rm {r : Row} {mk : Reg → Reg → Instr} {f7 : BitVec 7} {sub : BitVec 5} {op : BitVec 7}
    (hm : r.mask = 0xFFF0007F#32) (hp : r.pat = place 0 op ||| place 20 sub ||| place 25 f7)
    (hb : r.build = fun w => mk (rdOf w) (rs1Of w)) (rd rs1 : Reg) (rm : BitVec 3) :
    r.accepts (encR f7 sub rs1.bits rm rd.bits op) = true ∧ r.build (encR f7 sub rs1.bits rm rd.bits op) = mk rd rs1 := by
  constructor
  · simp only [Row.accepts, hm, hp, mask_FFF0007F, encR_op, encR_rs2, encR_f7, beq_self_eq_true]
  · simp only [hb, rdOf, rs1Of, encR_rd, encR_rs1, ofBits_bits]

theorem row_R1 {r : Row} {mk : Reg → Reg → Instr} {f7 : BitVec 7} {sub : BitVec 5} {f3 : BitVec 3} {op : BitVec 7}
    (hm : r.mask = 0xFFF0707F#32) (hp : r.pat = place 0 op ||| place 12 f3 ||| place 20 sub ||| place 25 f7)
    (hb : r.build = fun w => mk (rdOf w) (rs1Of w)) (rd rs1 : Reg) :
    r.accepts (encR f7 sub rs1.bits f3 rd.bits op) = true ∧ r.build (encR f7 sub rs1.bits f3 rd.bits op) = mk rd rs1 := by
  constructor
  · simp only [Row.accepts, hm, hp, mask_FFF0707F, encR_op, encR_f3, encR_rs2, encR_f7, beq_self_eq_true]
  · simp only [hb, rdOf, rs1Of, encR_rd, encR_rs1, ofBits_bits]

theorem row_RM {r : Row} {mk : Reg → Reg → RmField → Instr} {f7 : BitVec 7} {sub : BitVec 5} {op : BitVec 7}
    (hm : r.mask = 0xFFF0007F#32) (hp : r.pat = place 0 op ||| place 20 sub ||| place 25 f7)
    (hb : r.build = fun w => mk (rdOf w) (rs1Of w) (rmOf w)) (rd rs1 : Reg) (rm : RmField) :
    r.accepts (encR f7 sub rs1.bits rm.bits rd.bits op) = true ∧ r.build (encR f7 sub rs1.bits rm.bits rd.bits op) = mk rd rs1 rm := by
  constructor
  · simp only [Row.accepts, hm, hp, mask_FFF0007F, encR_op, encR_rs2, encR_f7, beq_self_eq_true]
  · simp only [hb, rdOf, rs1Of, rmOf, encR_rd, encR_rs1, encR_f3, ofBits_bits, rm_ofBits_bits]

theorem row_R4 {r : Row} {mk : Reg → Reg → Reg → Reg → Instr} {f2 : BitVec 2} {op : BitVec 7}
    (hm : r.mask = 0x0600007F#32) (hp : r.pat = place 0 op ||| place 25 f2)
    (hb : r.build = fun w => mk (rdOf w) (rs1Of w) (rs2Of w) (rs3Of w)) (rd rs1 rs2 rs3 : Reg) (rm : BitVec 3) :
    r.accepts (encR4 rs3.bits f2 rs2.bits rs1.bits rm rd.bits op) = true ∧ r.build (encR4 rs3.bits f2 rs2.bits rs1.bits rm rd.bits op) = mk rd rs1 rs2 rs3 := by
  constructor
  · simp only [Row.accepts, hm, hp, mask_0600007F, encR4_op, encR4_f2, beq_self_eq_true]
  · simp only [hb, rdOf, rs1Of, rs2Of, rs3Of, encR4_rd, encR4_rs1, encR4_rs2, encR4_rs3, ofBits_bits]

theorem row_AMO {r : Row} {mk : Reg → Reg → Reg → Instr} {f5 : BitVec 5} {f3 : BitVec 3} {op : BitVec 7}
    (hm : r.mask = 0xF800707F#32) (hp : r.pat = place 0 op ||| place 12 f3 ||| place 27 f5)
    (hb : r.build = fun w => mk (rdOf w) (rs1Of w) (rs2Of w)) (rd rs1 rs2 : Reg) (o : BitVec 2) :
    r.accepts (encR (f5 ++ o : BitVec (5 + 2)) rs2.bits rs1.bits f3 rd.bits op) = true ∧ r.build (encR (f5 ++ o : BitVec (5 + 2)) rs2.bits rs1.bits f3 rd.bits op) = mk rd rs1 rs2 := by
  constructor
  · simp only [Row.accepts, hm, hp, mask_F800707F, encR_op, encR_f3, encR_f5, append_high_5_2, beq_self_eq_true]
  · simp only [hb, rdOf, rs1Of, rs2Of, encR_rd, encR_rs1, encR_rs2, ofBits_bits]

theorem row_LR {r : Row} {mk : Reg → Reg → Instr} {f5 sub : BitVec 5} {f3 : BitVec 3} {op : BitVec 7}
    (hm : r.mask = 0xF9F0707F#32) (hp : r.pat = place 0 op ||| place 12 f3 ||| place 20 sub ||| place 27 f5)
    (hb : r.build = fun w => mk (rdOf w) (rs1Of w)) (rd rs1 : Reg) (o : BitVec 2) :
    r.accepts (encR (f5 ++ o : BitVec (5 + 2)) sub rs1.bits f3 rd.bits op) = true ∧ r.build (encR (f5 ++ o : BitVec (5 + 2)) sub rs1.bits f3 rd.bits op) = mk rd rs1 := by
  constructor
  · simp only [Row.accepts, hm, hp, mask_F9F0707F, encR_op, encR_f3, encR_rs2, encR_f5, append_high_5_2, beq_self_eq_true]
  · simp only [hb, rdOf, rs1Of, encR_rd, encR_rs1, ofBits_bits]

theorem row_C {r : Row} {mk : Reg → Reg → CsrIndex → Instr} {f3 : BitVec 3} {op : BitVec 7}
    (hm : r.mask = 0x0000707F#32) (hp : r.pat = place 0 op ||| place 12 f3)
    (hb : r.build = fun w => mk (rdOf w) (rs1Of w) (csrOf w)) (rd rs1 : Reg) (csr : CsrIndex) :
    r.accepts (encI csr rs1.bits f3 rd.bits op) = true ∧ r.build (encI csr rs1.bits f3 rd.bits op) = mk rd rs1 csr := by
  constructor
  · simp only [Row.accepts, hm, hp, mask_0000707F, encI_op, encI_f3, beq_self_eq_true]
  · simp only [hb, rdOf, rs1Of, csrOf, encI_rd, encI_rs1, encI_imm, ofBits_bits]

theorem row_CI {r : Row} {mk : Reg → BitVec 5 → CsrIndex → Instr} {f3 : BitVec 3} {op : BitVec 7}
    (hm : r.mask = 0x0000707F#32) (hp : r.pat = place 0 op ||| place 12 f3)
    (hb : r.build = fun w => mk (rdOf w) (uimmOf w) (csrOf w)) (rd : Reg) (uimm : BitVec 5) (csr : CsrIndex) :
    r.accepts (encI csr uimm f3 rd.bits op) = true ∧ r.build (encI csr uimm f3 rd.bits op) = mk rd uimm csr := by
  constructor
  · simp only [Row.accepts, hm, hp, mask_0000707F, encI_op, encI_f3, beq_self_eq_true]
  · simp only [hb, rdOf, uimmOf, csrOf, encI_rd, encI_rs1, encI_imm, ofBits_bits]

theorem row_N {r : Row} {mk : Instr} {f3 : BitVec 3} {op : BitVec 7}
    (hm : r.mask = 0x0000707F#32) (hp : r.pat = place 0 op ||| place 12 f3)
    (hb : r.build = fun _ => mk) (imm : BitVec 12) (rs1 rd : BitVec 5) :
    r.accepts (encI imm rs1 f3 rd op) = true ∧ r.build (encI imm rs1 f3 rd op) = mk := by
  constructor
  · simp only [Row.accepts, hm, hp, mask_0000707F, encI_op, encI_f3, beq_self_eq_true]
  · simp only [hb]

theorem row_I {r : Row} {mk : Reg → Reg → Word → Instr} {f3 : BitVec 3} {op : BitVec 7}
    (hm : r.mask = 0x0000707F#32) (hp : r.pat = place 0 op ||| place 12 f3)
    (hb : r.build = fun w => mk (rdOf w) (rs1Of w) (immI w)) (rd rs1 : Reg) (imm : Word) :
    r.accepts (encI (imm.setWidth 12) rs1.bits f3 rd.bits op) = true ∧
      (fitsSigned 12 imm = true → r.build (encI (imm.setWidth 12) rs1.bits f3 rd.bits op) = mk rd rs1 imm) := by
  constructor
  · simp only [Row.accepts, hm, hp, mask_0000707F, encI_op, encI_f3, beq_self_eq_true]
  · intro h; simp only [hb, rdOf, rs1Of, encI_rd, encI_rs1, ofBits_bits, immI_encI h]

theorem row_S {r : Row} {mk : Reg → Reg → Word → Instr} {f3 : BitVec 3} {op : BitVec 7}
    (hm : r.mask = 0x0000707F#32) (hp : r.pat = place 0 op ||| place 12 f3)
    (hb : r.build = fun w => mk (rs1Of w) (rs2Of w) (immS w)) (rs1 rs2 : Reg) (imm : Word) :
    r.accepts (encS (imm.setWidth 12) rs2.bits rs1.bits f3 op) = true ∧
      (fitsSigned 12 imm = true → r.build (encS (imm.setWidth 12) rs2.bits rs1.bits f3 op) = mk rs1 rs2 imm) := by
  constructor
  · simp only [Row.accepts, hm, hp, mask_0000707F, encS_op, encS_f3, beq_self_eq_true]
  · intro h; simp only [hb, rs1Of, rs2Of, encS_rs1, encS_rs2, ofBits_bits, immS_encS h]

theorem row_B {r : Row} {mk : Reg → Reg → Word → Instr} {f3 : BitVec 3} {op : BitVec 7}
    (hm : r.mask = 0x0000707F#32) (hp : r.pat = place 0 op ||| place 12 f3)
    (hb : r.build = fun w => mk (rs1Of w) (rs2Of w) (immB w)) (rs1 rs2 : Reg) (k : Word) :
    r.accepts (encB (k.setWidth 12) rs2.bits rs1.bits f3 op) = true ∧
      (fitsSigned 12 k = true → r.build (encB (k.setWidth 12) rs2.bits rs1.bits f3 op) = mk rs1 rs2 k) := by
  constructor
  · simp only [Row.accepts, hm, hp, mask_0000707F, encB_op, encB_f3, beq_self_eq_true]
  · intro h; simp only [hb, rs1Of, rs2Of, encB_rs1, encB_rs2, ofBits_bits, immB_encB h]

theorem row_U {r : Row} {mk : Reg → Word → Instr} {op : BitVec 7}
    (hm : r.mask = 0x0000007F#32) (hp : r.pat = place 0 op)
    (hb : r.build = fun w => mk (rdOf w) (immU w)) (rd : Reg) (imm : Word) :
    r.accepts (encU (imm.setWidth 20) rd.bits op) = true ∧
      (fitsSigned 20 imm = true → r.build (encU (imm.setWidth 20) rd.bits op) = mk rd imm) := by
  constructor
  · simp only [Row.accepts, hm, hp, mask_0000007F, encU_op, beq_self_eq_true]
  · intro h; simp only [hb, rdOf, encU_rd, ofBits_bits, immU_encU h]

theorem row_J {r : Row} {mk : Reg → Word → Instr} {op : BitVec 7}
    (hm : r.mask = 0x0000007F#32) (hp : r.pat = place 0 op)
    (hb : r.build = fun w => mk (rdOf w) (immJ w)) (rd : Reg) (joff : Word) :
    r.accepts (encJ (joff.setWidth 21) rd.bits op) = true ∧
      (fitsSigned 21 joff = true ∧ joff.getLsbD 0 = false → r.build (encJ (joff.setWidth 21) rd.bits op) = mk rd joff) := by
  constructor
  · simp only [Row.accepts, hm, hp, mask_0000007F, encJ_op, beq_self_eq_true]
  · intro h; simp only [hb, rdOf, encJ_rd, ofBits_bits, immJ_encJ h.1 h.2]

theorem row_SH6 {r : Row} {mk : Reg → Reg → Word → Instr} {top : BitVec 6} {f3 : BitVec 3} {op : BitVec 7}
    (hm : r.mask = 0xFC00707F#32) (hp : r.pat = place 0 op ||| place 12 f3 ||| place 26 top)
    (hb : r.build = fun w => mk (rdOf w) (rs1Of w) (shamt6 w)) (rd rs1 : Reg) (shamt : Word) :
    r.accepts (encI (top ++ shamt.setWidth 6 : BitVec (6 + 6)) rs1.bits f3 rd.bits op) = true ∧
      (fitsUnsigned 6 shamt = true → r.build (encI (top ++ shamt.setWidth 6 : BitVec (6 + 6)) rs1.bits f3 rd.bits op) = mk rd rs1 shamt) := by
  constructor
  · simp only [Row.accepts, hm, hp, mask_FC00707F, encI_op, encI_f3, encI_hi6, append_high_6_6, beq_self_eq_true]
  · intro h; simp only [hb, rdOf, rs1Of, shamt6, encI_rd, encI_rs1, encI_lo6, append_low_6_6, ofBits_bits, fitsUnsigned_eq h]

theorem row_SH5 {r : Row} {mk : Reg → Reg → Word → Instr} {f7 : BitVec 7} {f3 : BitVec 3} {op : BitVec 7}
    (hm : r.mask = 0xFE00707F#32) (hp : r.pat = place 0 op ||| place 12 f3 ||| place 25 f7)
    (hb : r.build = fun w => mk (rdOf w) (rs1Of w) (shamt5 w)) (rd rs1 : Reg) (shamt : Word) :
    r.accepts (encR f7 (shamt.setWidth 5) rs1.bits f3 rd.bits op) = true ∧
      (fitsUnsigned 5 shamt = true → r.build (encR f7 (shamt.setWidth 5) rs1.bits f3 rd.bits op) = mk rd rs1 shamt) := by
  constructor
  · simp only [Row.accepts, hm, hp, mask_FE00707F, encR_op, encR_f3, encR_f7, beq_self_eq_true]
  · intro h; simp only [hb, rdOf, rs1Of, shamt5, encR_rd, encR_rs1, encR_rs2, ofBits_bits, fitsUnsigned_eq h]

/-! ### The lemmas -/

theorem EncodeRow.lui (rd : Reg) (imm : Word) : EncodeRow.Statement (.lui rd imm) :=
  ⟨rowsControl[0], mem_rowsControl (List.getElem_mem _), fun v => via_word (or_and_zero _ _) (
    have h := row_U (r := rowsControl[0]) (op := 0b0110111#7)
      rfl (by decide) rfl rd imm
    h)⟩

theorem EncodeRow.auipc (rd : Reg) (imm : Word) : EncodeRow.Statement (.auipc rd imm) :=
  ⟨rowsControl[1], mem_rowsControl (List.getElem_mem _), fun v => via_word (or_and_zero _ _) (
    have h := row_U (r := rowsControl[1]) (op := 0b0010111#7)
      rfl (by decide) rfl rd imm
    h)⟩

theorem EncodeRow.jal (rd : Reg) (joff : Word) : EncodeRow.Statement (.jal rd joff) :=
  ⟨rowsControl[2], mem_rowsControl (List.getElem_mem _), fun v => via_word (or_and_zero _ _) (
    have h := row_J (r := rowsControl[2]) (op := 0b1101111#7)
      rfl (by decide) rfl rd joff
    ⟨h.1, fun hw => h.2 (by simpa [Instr.wf] using hw)⟩)⟩

theorem EncodeRow.jalr (rd rs1 : Reg) (imm : Word) : EncodeRow.Statement (.jalr rd rs1 imm) :=
  ⟨rowsControl[3], mem_rowsControl (List.getElem_mem _), fun v => via_word (or_and_zero _ _) (
    have h := row_I (r := rowsControl[3]) (f3 := 0b000#3) (op := 0b1100111#7)
      rfl (by decide) rfl rd rs1 imm
    h)⟩

theorem EncodeRow.beq (rs1 rs2 : Reg) (k : Word) : EncodeRow.Statement (.beq rs1 rs2 k) :=
  ⟨rowsControl[4], mem_rowsControl (List.getElem_mem _), fun v => via_word (or_and_zero _ _) (
    have h := row_B (r := rowsControl[4]) (f3 := 0b000#3) (op := 0b1100011#7)
      rfl (by decide) rfl rs1 rs2 k
    h)⟩

theorem EncodeRow.bne (rs1 rs2 : Reg) (k : Word) : EncodeRow.Statement (.bne rs1 rs2 k) :=
  ⟨rowsControl[5], mem_rowsControl (List.getElem_mem _), fun v => via_word (or_and_zero _ _) (
    have h := row_B (r := rowsControl[5]) (f3 := 0b001#3) (op := 0b1100011#7)
      rfl (by decide) rfl rs1 rs2 k
    h)⟩

theorem EncodeRow.blt (rs1 rs2 : Reg) (k : Word) : EncodeRow.Statement (.blt rs1 rs2 k) :=
  ⟨rowsControl[6], mem_rowsControl (List.getElem_mem _), fun v => via_word (or_and_zero _ _) (
    have h := row_B (r := rowsControl[6]) (f3 := 0b100#3) (op := 0b1100011#7)
      rfl (by decide) rfl rs1 rs2 k
    h)⟩

theorem EncodeRow.bge (rs1 rs2 : Reg) (k : Word) : EncodeRow.Statement (.bge rs1 rs2 k) :=
  ⟨rowsControl[7], mem_rowsControl (List.getElem_mem _), fun v => via_word (or_and_zero _ _) (
    have h := row_B (r := rowsControl[7]) (f3 := 0b101#3) (op := 0b1100011#7)
      rfl (by decide) rfl rs1 rs2 k
    h)⟩

theorem EncodeRow.bltu (rs1 rs2 : Reg) (k : Word) : EncodeRow.Statement (.bltu rs1 rs2 k) :=
  ⟨rowsControl[8], mem_rowsControl (List.getElem_mem _), fun v => via_word (or_and_zero _ _) (
    have h := row_B (r := rowsControl[8]) (f3 := 0b110#3) (op := 0b1100011#7)
      rfl (by decide) rfl rs1 rs2 k
    h)⟩

theorem EncodeRow.bgeu (rs1 rs2 : Reg) (k : Word) : EncodeRow.Statement (.bgeu rs1 rs2 k) :=
  ⟨rowsControl[9], mem_rowsControl (List.getElem_mem _), fun v => via_word (or_and_zero _ _) (
    have h := row_B (r := rowsControl[9]) (f3 := 0b111#3) (op := 0b1100011#7)
      rfl (by decide) rfl rs1 rs2 k
    h)⟩

theorem EncodeRow.lb (rd rs1 : Reg) (imm : Word) : EncodeRow.Statement (.lb rd rs1 imm) :=
  ⟨rowsLoadStore[0], mem_rowsLoadStore (List.getElem_mem _), fun v => via_word (or_and_zero _ _) (
    have h := row_I (r := rowsLoadStore[0]) (f3 := 0b000#3) (op := 0b0000011#7)
      rfl (by decide) rfl rd rs1 imm
    h)⟩

theorem EncodeRow.lh (rd rs1 : Reg) (imm : Word) : EncodeRow.Statement (.lh rd rs1 imm) :=
  ⟨rowsLoadStore[1], mem_rowsLoadStore (List.getElem_mem _), fun v => via_word (or_and_zero _ _) (
    have h := row_I (r := rowsLoadStore[1]) (f3 := 0b001#3) (op := 0b0000011#7)
      rfl (by decide) rfl rd rs1 imm
    h)⟩

theorem EncodeRow.lw (rd rs1 : Reg) (imm : Word) : EncodeRow.Statement (.lw rd rs1 imm) :=
  ⟨rowsLoadStore[2], mem_rowsLoadStore (List.getElem_mem _), fun v => via_word (or_and_zero _ _) (
    have h := row_I (r := rowsLoadStore[2]) (f3 := 0b010#3) (op := 0b0000011#7)
      rfl (by decide) rfl rd rs1 imm
    h)⟩

theorem EncodeRow.ld (rd rs1 : Reg) (imm : Word) : EncodeRow.Statement (.ld rd rs1 imm) :=
  ⟨rowsLoadStore[3], mem_rowsLoadStore (List.getElem_mem _), fun v => via_word (or_and_zero _ _) (
    have h := row_I (r := rowsLoadStore[3]) (f3 := 0b011#3) (op := 0b0000011#7)
      rfl (by decide) rfl rd rs1 imm
    h)⟩

theorem EncodeRow.lbu (rd rs1 : Reg) (imm : Word) : EncodeRow.Statement (.lbu rd rs1 imm) :=
  ⟨rowsLoadStore[4], mem_rowsLoadStore (List.getElem_mem _), fun v => via_word (or_and_zero _ _) (
    have h := row_I (r := rowsLoadStore[4]) (f3 := 0b100#3) (op := 0b0000011#7)
      rfl (by decide) rfl rd rs1 imm
    h)⟩

theorem EncodeRow.lhu (rd rs1 : Reg) (imm : Word) : EncodeRow.Statement (.lhu rd rs1 imm) :=
  ⟨rowsLoadStore[5], mem_rowsLoadStore (List.getElem_mem _), fun v => via_word (or_and_zero _ _) (
    have h := row_I (r := rowsLoadStore[5]) (f3 := 0b101#3) (op := 0b0000011#7)
      rfl (by decide) rfl rd rs1 imm
    h)⟩

theorem EncodeRow.lwu (rd rs1 : Reg) (imm : Word) : EncodeRow.Statement (.lwu rd rs1 imm) :=
  ⟨rowsLoadStore[6], mem_rowsLoadStore (List.getElem_mem _), fun v => via_word (or_and_zero _ _) (
    have h := row_I (r := rowsLoadStore[6]) (f3 := 0b110#3) (op := 0b0000011#7)
      rfl (by decide) rfl rd rs1 imm
    h)⟩

theorem EncodeRow.sb (rs1 rs2 : Reg) (imm : Word) : EncodeRow.Statement (.sb rs1 rs2 imm) :=
  ⟨rowsLoadStore[7], mem_rowsLoadStore (List.getElem_mem _), fun v => via_word (or_and_zero _ _) (
    have h := row_S (r := rowsLoadStore[7]) (f3 := 0b000#3) (op := 0b0100011#7)
      rfl (by decide) rfl rs1 rs2 imm
    h)⟩

theorem EncodeRow.sh (rs1 rs2 : Reg) (imm : Word) : EncodeRow.Statement (.sh rs1 rs2 imm) :=
  ⟨rowsLoadStore[8], mem_rowsLoadStore (List.getElem_mem _), fun v => via_word (or_and_zero _ _) (
    have h := row_S (r := rowsLoadStore[8]) (f3 := 0b001#3) (op := 0b0100011#7)
      rfl (by decide) rfl rs1 rs2 imm
    h)⟩

theorem EncodeRow.sw (rs1 rs2 : Reg) (imm : Word) : EncodeRow.Statement (.sw rs1 rs2 imm) :=
  ⟨rowsLoadStore[9], mem_rowsLoadStore (List.getElem_mem _), fun v => via_word (or_and_zero _ _) (
    have h := row_S (r := rowsLoadStore[9]) (f3 := 0b010#3) (op := 0b0100011#7)
      rfl (by decide) rfl rs1 rs2 imm
    h)⟩

theorem EncodeRow.sd (rs1 rs2 : Reg) (imm : Word) : EncodeRow.Statement (.sd rs1 rs2 imm) :=
  ⟨rowsLoadStore[10], mem_rowsLoadStore (List.getElem_mem _), fun v => via_word (or_and_zero _ _) (
    have h := row_S (r := rowsLoadStore[10]) (f3 := 0b011#3) (op := 0b0100011#7)
      rfl (by decide) rfl rs1 rs2 imm
    h)⟩

theorem EncodeRow.addi (rd rs1 : Reg) (imm : Word) : EncodeRow.Statement (.addi rd rs1 imm) :=
  ⟨rowsOpImm[0], mem_rowsOpImm (List.getElem_mem _), fun v => via_word (or_and_zero _ _) (
    have h := row_I (r := rowsOpImm[0]) (f3 := 0b000#3) (op := 0b0010011#7)
      rfl (by decide) rfl rd rs1 imm
    h)⟩

theorem EncodeRow.slti (rd rs1 : Reg) (imm : Word) : EncodeRow.Statement (.slti rd rs1 imm) :=
  ⟨rowsOpImm[1], mem_rowsOpImm (List.getElem_mem _), fun v => via_word (or_and_zero _ _) (
    have h := row_I (r := rowsOpImm[1]) (f3 := 0b010#3) (op := 0b0010011#7)
      rfl (by decide) rfl rd rs1 imm
    h)⟩

theorem EncodeRow.sltiu (rd rs1 : Reg) (imm : Word) : EncodeRow.Statement (.sltiu rd rs1 imm) :=
  ⟨rowsOpImm[2], mem_rowsOpImm (List.getElem_mem _), fun v => via_word (or_and_zero _ _) (
    have h := row_I (r := rowsOpImm[2]) (f3 := 0b011#3) (op := 0b0010011#7)
      rfl (by decide) rfl rd rs1 imm
    h)⟩

theorem EncodeRow.xori (rd rs1 : Reg) (imm : Word) : EncodeRow.Statement (.xori rd rs1 imm) :=
  ⟨rowsOpImm[3], mem_rowsOpImm (List.getElem_mem _), fun v => via_word (or_and_zero _ _) (
    have h := row_I (r := rowsOpImm[3]) (f3 := 0b100#3) (op := 0b0010011#7)
      rfl (by decide) rfl rd rs1 imm
    h)⟩

theorem EncodeRow.ori (rd rs1 : Reg) (imm : Word) : EncodeRow.Statement (.ori rd rs1 imm) :=
  ⟨rowsOpImm[4], mem_rowsOpImm (List.getElem_mem _), fun v => via_word (or_and_zero _ _) (
    have h := row_I (r := rowsOpImm[4]) (f3 := 0b110#3) (op := 0b0010011#7)
      rfl (by decide) rfl rd rs1 imm
    h)⟩

theorem EncodeRow.andi (rd rs1 : Reg) (imm : Word) : EncodeRow.Statement (.andi rd rs1 imm) :=
  ⟨rowsOpImm[5], mem_rowsOpImm (List.getElem_mem _), fun v => via_word (or_and_zero _ _) (
    have h := row_I (r := rowsOpImm[5]) (f3 := 0b111#3) (op := 0b0010011#7)
      rfl (by decide) rfl rd rs1 imm
    h)⟩

theorem EncodeRow.slli (rd rs1 : Reg) (shamt : Word) : EncodeRow.Statement (.slli rd rs1 shamt) :=
  ⟨rowsOpImm[6], mem_rowsOpImm (List.getElem_mem _), fun v => via_word (or_and_zero _ _) (
    have h := row_SH6 (r := rowsOpImm[6]) (top := 0b000000#6) (f3 := 0b001#3) (op := 0b0010011#7)
      rfl (by decide) rfl rd rs1 shamt
    h)⟩

theorem EncodeRow.srli (rd rs1 : Reg) (shamt : Word) : EncodeRow.Statement (.srli rd rs1 shamt) :=
  ⟨rowsOpImm[7], mem_rowsOpImm (List.getElem_mem _), fun v => via_word (or_and_zero _ _) (
    have h := row_SH6 (r := rowsOpImm[7]) (top := 0b000000#6) (f3 := 0b101#3) (op := 0b0010011#7)
      rfl (by decide) rfl rd rs1 shamt
    h)⟩

theorem EncodeRow.srai (rd rs1 : Reg) (shamt : Word) : EncodeRow.Statement (.srai rd rs1 shamt) :=
  ⟨rowsOpImm[8], mem_rowsOpImm (List.getElem_mem _), fun v => via_word (or_and_zero _ _) (
    have h := row_SH6 (r := rowsOpImm[8]) (top := 0b010000#6) (f3 := 0b101#3) (op := 0b0010011#7)
      rfl (by decide) rfl rd rs1 shamt
    h)⟩

theorem EncodeRow.add (rd rs1 rs2 : Reg) : EncodeRow.Statement (.add rd rs1 rs2) :=
  ⟨rowsOp[0], mem_rowsOp (List.getElem_mem _), fun v => via_word (or_and_zero _ _) (
    have h := row_R (r := rowsOp[0]) (f7 := 0b0000000#7) (f3 := 0b000#3) (op := 0b0110011#7)
      rfl (by decide) rfl rd rs1 rs2
    ⟨h.1, fun _ => h.2⟩)⟩

theorem EncodeRow.sub (rd rs1 rs2 : Reg) : EncodeRow.Statement (.sub rd rs1 rs2) :=
  ⟨rowsOp[1], mem_rowsOp (List.getElem_mem _), fun v => via_word (or_and_zero _ _) (
    have h := row_R (r := rowsOp[1]) (f7 := 0b0100000#7) (f3 := 0b000#3) (op := 0b0110011#7)
      rfl (by decide) rfl rd rs1 rs2
    ⟨h.1, fun _ => h.2⟩)⟩

theorem EncodeRow.sll (rd rs1 rs2 : Reg) : EncodeRow.Statement (.sll rd rs1 rs2) :=
  ⟨rowsOp[2], mem_rowsOp (List.getElem_mem _), fun v => via_word (or_and_zero _ _) (
    have h := row_R (r := rowsOp[2]) (f7 := 0b0000000#7) (f3 := 0b001#3) (op := 0b0110011#7)
      rfl (by decide) rfl rd rs1 rs2
    ⟨h.1, fun _ => h.2⟩)⟩

theorem EncodeRow.slt (rd rs1 rs2 : Reg) : EncodeRow.Statement (.slt rd rs1 rs2) :=
  ⟨rowsOp[3], mem_rowsOp (List.getElem_mem _), fun v => via_word (or_and_zero _ _) (
    have h := row_R (r := rowsOp[3]) (f7 := 0b0000000#7) (f3 := 0b010#3) (op := 0b0110011#7)
      rfl (by decide) rfl rd rs1 rs2
    ⟨h.1, fun _ => h.2⟩)⟩

theorem EncodeRow.sltu (rd rs1 rs2 : Reg) : EncodeRow.Statement (.sltu rd rs1 rs2) :=
  ⟨rowsOp[4], mem_rowsOp (List.getElem_mem _), fun v => via_word (or_and_zero _ _) (
    have h := row_R (r := rowsOp[4]) (f7 := 0b0000000#7) (f3 := 0b011#3) (op := 0b0110011#7)
      rfl (by decide) rfl rd rs1 rs2
    ⟨h.1, fun _ => h.2⟩)⟩

theorem EncodeRow.xor (rd rs1 rs2 : Reg) : EncodeRow.Statement (.xor rd rs1 rs2) :=
  ⟨rowsOp[5], mem_rowsOp (List.getElem_mem _), fun v => via_word (or_and_zero _ _) (
    have h := row_R (r := rowsOp[5]) (f7 := 0b0000000#7) (f3 := 0b100#3) (op := 0b0110011#7)
      rfl (by decide) rfl rd rs1 rs2
    ⟨h.1, fun _ => h.2⟩)⟩

theorem EncodeRow.srl (rd rs1 rs2 : Reg) : EncodeRow.Statement (.srl rd rs1 rs2) :=
  ⟨rowsOp[6], mem_rowsOp (List.getElem_mem _), fun v => via_word (or_and_zero _ _) (
    have h := row_R (r := rowsOp[6]) (f7 := 0b0000000#7) (f3 := 0b101#3) (op := 0b0110011#7)
      rfl (by decide) rfl rd rs1 rs2
    ⟨h.1, fun _ => h.2⟩)⟩

theorem EncodeRow.sra (rd rs1 rs2 : Reg) : EncodeRow.Statement (.sra rd rs1 rs2) :=
  ⟨rowsOp[7], mem_rowsOp (List.getElem_mem _), fun v => via_word (or_and_zero _ _) (
    have h := row_R (r := rowsOp[7]) (f7 := 0b0100000#7) (f3 := 0b101#3) (op := 0b0110011#7)
      rfl (by decide) rfl rd rs1 rs2
    ⟨h.1, fun _ => h.2⟩)⟩

theorem EncodeRow.or (rd rs1 rs2 : Reg) : EncodeRow.Statement (.or rd rs1 rs2) :=
  ⟨rowsOp[8], mem_rowsOp (List.getElem_mem _), fun v => via_word (or_and_zero _ _) (
    have h := row_R (r := rowsOp[8]) (f7 := 0b0000000#7) (f3 := 0b110#3) (op := 0b0110011#7)
      rfl (by decide) rfl rd rs1 rs2
    ⟨h.1, fun _ => h.2⟩)⟩

theorem EncodeRow.and (rd rs1 rs2 : Reg) : EncodeRow.Statement (.and rd rs1 rs2) :=
  ⟨rowsOp[9], mem_rowsOp (List.getElem_mem _), fun v => via_word (or_and_zero _ _) (
    have h := row_R (r := rowsOp[9]) (f7 := 0b0000000#7) (f3 := 0b111#3) (op := 0b0110011#7)
      rfl (by decide) rfl rd rs1 rs2
    ⟨h.1, fun _ => h.2⟩)⟩

theorem EncodeRow.addiw (rd rs1 : Reg) (imm : Word) : EncodeRow.Statement (.addiw rd rs1 imm) :=
  ⟨rowsOpImm[9], mem_rowsOpImm (List.getElem_mem _), fun v => via_word (or_and_zero _ _) (
    have h := row_I (r := rowsOpImm[9]) (f3 := 0b000#3) (op := 0b0011011#7)
      rfl (by decide) rfl rd rs1 imm
    h)⟩

theorem EncodeRow.slliw (rd rs1 : Reg) (shamt : Word) : EncodeRow.Statement (.slliw rd rs1 shamt) :=
  ⟨rowsOpImm[10], mem_rowsOpImm (List.getElem_mem _), fun v => via_word (or_and_zero _ _) (
    have h := row_SH5 (r := rowsOpImm[10]) (f7 := 0b0000000#7) (f3 := 0b001#3) (op := 0b0011011#7)
      rfl (by decide) rfl rd rs1 shamt
    h)⟩

theorem EncodeRow.srliw (rd rs1 : Reg) (shamt : Word) : EncodeRow.Statement (.srliw rd rs1 shamt) :=
  ⟨rowsOpImm[11], mem_rowsOpImm (List.getElem_mem _), fun v => via_word (or_and_zero _ _) (
    have h := row_SH5 (r := rowsOpImm[11]) (f7 := 0b0000000#7) (f3 := 0b101#3) (op := 0b0011011#7)
      rfl (by decide) rfl rd rs1 shamt
    h)⟩

theorem EncodeRow.sraiw (rd rs1 : Reg) (shamt : Word) : EncodeRow.Statement (.sraiw rd rs1 shamt) :=
  ⟨rowsOpImm[12], mem_rowsOpImm (List.getElem_mem _), fun v => via_word (or_and_zero _ _) (
    have h := row_SH5 (r := rowsOpImm[12]) (f7 := 0b0100000#7) (f3 := 0b101#3) (op := 0b0011011#7)
      rfl (by decide) rfl rd rs1 shamt
    h)⟩

theorem EncodeRow.addw (rd rs1 rs2 : Reg) : EncodeRow.Statement (.addw rd rs1 rs2) :=
  ⟨rowsOp[10], mem_rowsOp (List.getElem_mem _), fun v => via_word (or_and_zero _ _) (
    have h := row_R (r := rowsOp[10]) (f7 := 0b0000000#7) (f3 := 0b000#3) (op := 0b0111011#7)
      rfl (by decide) rfl rd rs1 rs2
    ⟨h.1, fun _ => h.2⟩)⟩

theorem EncodeRow.subw (rd rs1 rs2 : Reg) : EncodeRow.Statement (.subw rd rs1 rs2) :=
  ⟨rowsOp[11], mem_rowsOp (List.getElem_mem _), fun v => via_word (or_and_zero _ _) (
    have h := row_R (r := rowsOp[11]) (f7 := 0b0100000#7) (f3 := 0b000#3) (op := 0b0111011#7)
      rfl (by decide) rfl rd rs1 rs2
    ⟨h.1, fun _ => h.2⟩)⟩

theorem EncodeRow.sllw (rd rs1 rs2 : Reg) : EncodeRow.Statement (.sllw rd rs1 rs2) :=
  ⟨rowsOp[12], mem_rowsOp (List.getElem_mem _), fun v => via_word (or_and_zero _ _) (
    have h := row_R (r := rowsOp[12]) (f7 := 0b0000000#7) (f3 := 0b001#3) (op := 0b0111011#7)
      rfl (by decide) rfl rd rs1 rs2
    ⟨h.1, fun _ => h.2⟩)⟩

theorem EncodeRow.srlw (rd rs1 rs2 : Reg) : EncodeRow.Statement (.srlw rd rs1 rs2) :=
  ⟨rowsOp[13], mem_rowsOp (List.getElem_mem _), fun v => via_word (or_and_zero _ _) (
    have h := row_R (r := rowsOp[13]) (f7 := 0b0000000#7) (f3 := 0b101#3) (op := 0b0111011#7)
      rfl (by decide) rfl rd rs1 rs2
    ⟨h.1, fun _ => h.2⟩)⟩

theorem EncodeRow.sraw (rd rs1 rs2 : Reg) : EncodeRow.Statement (.sraw rd rs1 rs2) :=
  ⟨rowsOp[14], mem_rowsOp (List.getElem_mem _), fun v => via_word (or_and_zero _ _) (
    have h := row_R (r := rowsOp[14]) (f7 := 0b0100000#7) (f3 := 0b101#3) (op := 0b0111011#7)
      rfl (by decide) rfl rd rs1 rs2
    ⟨h.1, fun _ => h.2⟩)⟩

theorem EncodeRow.fence : EncodeRow.Statement (.fence) :=
  ⟨rowsCsrFence[0], mem_rowsCsrFence (List.getElem_mem _), fun v => via_word (encI_ignored _ _ _) (
    have h := row_N (r := rowsCsrFence[0]) (f3 := 0b000#3) (op := 0b0001111#7)
      rfl (by decide) rfl (v.extractLsb' 20 12) (v.extractLsb' 15 5) (v.extractLsb' 7 5)
    ⟨h.1, fun _ => h.2⟩)⟩

theorem EncodeRow.fenceI : EncodeRow.Statement (.fenceI) :=
  ⟨rowsCsrFence[1], mem_rowsCsrFence (List.getElem_mem _), fun v => via_word (encI_ignored _ _ _) (
    have h := row_N (r := rowsCsrFence[1]) (f3 := 0b001#3) (op := 0b0001111#7)
      rfl (by decide) rfl (v.extractLsb' 20 12) (v.extractLsb' 15 5) (v.extractLsb' 7 5)
    ⟨h.1, fun _ => h.2⟩)⟩

theorem EncodeRow.csrrw (rd rs1 : Reg) (csr : CsrIndex) : EncodeRow.Statement (.csrrw rd rs1 csr) :=
  ⟨rowsCsrFence[2], mem_rowsCsrFence (List.getElem_mem _), fun v => via_word (or_and_zero _ _) (
    have h := row_C (r := rowsCsrFence[2]) (f3 := 0b001#3) (op := 0b1110011#7)
      rfl (by decide) rfl rd rs1 csr
    ⟨h.1, fun _ => h.2⟩)⟩

theorem EncodeRow.csrrs (rd rs1 : Reg) (csr : CsrIndex) : EncodeRow.Statement (.csrrs rd rs1 csr) :=
  ⟨rowsCsrFence[3], mem_rowsCsrFence (List.getElem_mem _), fun v => via_word (or_and_zero _ _) (
    have h := row_C (r := rowsCsrFence[3]) (f3 := 0b010#3) (op := 0b1110011#7)
      rfl (by decide) rfl rd rs1 csr
    ⟨h.1, fun _ => h.2⟩)⟩

theorem EncodeRow.csrrc (rd rs1 : Reg) (csr : CsrIndex) : EncodeRow.Statement (.csrrc rd rs1 csr) :=
  ⟨rowsCsrFence[4], mem_rowsCsrFence (List.getElem_mem _), fun v => via_word (or_and_zero _ _) (
    have h := row_C (r := rowsCsrFence[4]) (f3 := 0b011#3) (op := 0b1110011#7)
      rfl (by decide) rfl rd rs1 csr
    ⟨h.1, fun _ => h.2⟩)⟩

theorem EncodeRow.csrrwi (rd : Reg) (uimm : BitVec 5) (csr : CsrIndex) : EncodeRow.Statement (.csrrwi rd uimm csr) :=
  ⟨rowsCsrFence[5], mem_rowsCsrFence (List.getElem_mem _), fun v => via_word (or_and_zero _ _) (
    have h := row_CI (r := rowsCsrFence[5]) (f3 := 0b101#3) (op := 0b1110011#7)
      rfl (by decide) rfl rd uimm csr
    ⟨h.1, fun _ => h.2⟩)⟩

theorem EncodeRow.csrrsi (rd : Reg) (uimm : BitVec 5) (csr : CsrIndex) : EncodeRow.Statement (.csrrsi rd uimm csr) :=
  ⟨rowsCsrFence[6], mem_rowsCsrFence (List.getElem_mem _), fun v => via_word (or_and_zero _ _) (
    have h := row_CI (r := rowsCsrFence[6]) (f3 := 0b110#3) (op := 0b1110011#7)
      rfl (by decide) rfl rd uimm csr
    ⟨h.1, fun _ => h.2⟩)⟩

theorem EncodeRow.csrrci (rd : Reg) (uimm : BitVec 5) (csr : CsrIndex) : EncodeRow.Statement (.csrrci rd uimm csr) :=
  ⟨rowsCsrFence[7], mem_rowsCsrFence (List.getElem_mem _), fun v => via_word (or_and_zero _ _) (
    have h := row_CI (r := rowsCsrFence[7]) (f3 := 0b111#3) (op := 0b1110011#7)
      rfl (by decide) rfl rd uimm csr
    ⟨h.1, fun _ => h.2⟩)⟩

theorem EncodeRow.mul (rd rs1 rs2 : Reg) : EncodeRow.Statement (.mul rd rs1 rs2) :=
  ⟨rowsMulDiv[0], mem_rowsMulDiv (List.getElem_mem _), fun v => via_word (or_and_zero _ _) (
    have h := row_R (r := rowsMulDiv[0]) (f7 := 0b0000001#7) (f3 := 0b000#3) (op := 0b0110011#7)
      rfl (by decide) rfl rd rs1 rs2
    ⟨h.1, fun _ => h.2⟩)⟩

theorem EncodeRow.mulh (rd rs1 rs2 : Reg) : EncodeRow.Statement (.mulh rd rs1 rs2) :=
  ⟨rowsMulDiv[1], mem_rowsMulDiv (List.getElem_mem _), fun v => via_word (or_and_zero _ _) (
    have h := row_R (r := rowsMulDiv[1]) (f7 := 0b0000001#7) (f3 := 0b001#3) (op := 0b0110011#7)
      rfl (by decide) rfl rd rs1 rs2
    ⟨h.1, fun _ => h.2⟩)⟩

theorem EncodeRow.mulhsu (rd rs1 rs2 : Reg) : EncodeRow.Statement (.mulhsu rd rs1 rs2) :=
  ⟨rowsMulDiv[2], mem_rowsMulDiv (List.getElem_mem _), fun v => via_word (or_and_zero _ _) (
    have h := row_R (r := rowsMulDiv[2]) (f7 := 0b0000001#7) (f3 := 0b010#3) (op := 0b0110011#7)
      rfl (by decide) rfl rd rs1 rs2
    ⟨h.1, fun _ => h.2⟩)⟩

theorem EncodeRow.mulhu (rd rs1 rs2 : Reg) : EncodeRow.Statement (.mulhu rd rs1 rs2) :=
  ⟨rowsMulDiv[3], mem_rowsMulDiv (List.getElem_mem _), fun v => via_word (or_and_zero _ _) (
    have h := row_R (r := rowsMulDiv[3]) (f7 := 0b0000001#7) (f3 := 0b011#3) (op := 0b0110011#7)
      rfl (by decide) rfl rd rs1 rs2
    ⟨h.1, fun _ => h.2⟩)⟩

theorem EncodeRow.div (rd rs1 rs2 : Reg) : EncodeRow.Statement (.div rd rs1 rs2) :=
  ⟨rowsMulDiv[4], mem_rowsMulDiv (List.getElem_mem _), fun v => via_word (or_and_zero _ _) (
    have h := row_R (r := rowsMulDiv[4]) (f7 := 0b0000001#7) (f3 := 0b100#3) (op := 0b0110011#7)
      rfl (by decide) rfl rd rs1 rs2
    ⟨h.1, fun _ => h.2⟩)⟩

theorem EncodeRow.divu (rd rs1 rs2 : Reg) : EncodeRow.Statement (.divu rd rs1 rs2) :=
  ⟨rowsMulDiv[5], mem_rowsMulDiv (List.getElem_mem _), fun v => via_word (or_and_zero _ _) (
    have h := row_R (r := rowsMulDiv[5]) (f7 := 0b0000001#7) (f3 := 0b101#3) (op := 0b0110011#7)
      rfl (by decide) rfl rd rs1 rs2
    ⟨h.1, fun _ => h.2⟩)⟩

theorem EncodeRow.rem (rd rs1 rs2 : Reg) : EncodeRow.Statement (.rem rd rs1 rs2) :=
  ⟨rowsMulDiv[6], mem_rowsMulDiv (List.getElem_mem _), fun v => via_word (or_and_zero _ _) (
    have h := row_R (r := rowsMulDiv[6]) (f7 := 0b0000001#7) (f3 := 0b110#3) (op := 0b0110011#7)
      rfl (by decide) rfl rd rs1 rs2
    ⟨h.1, fun _ => h.2⟩)⟩

theorem EncodeRow.remu (rd rs1 rs2 : Reg) : EncodeRow.Statement (.remu rd rs1 rs2) :=
  ⟨rowsMulDiv[7], mem_rowsMulDiv (List.getElem_mem _), fun v => via_word (or_and_zero _ _) (
    have h := row_R (r := rowsMulDiv[7]) (f7 := 0b0000001#7) (f3 := 0b111#3) (op := 0b0110011#7)
      rfl (by decide) rfl rd rs1 rs2
    ⟨h.1, fun _ => h.2⟩)⟩

theorem EncodeRow.mulw (rd rs1 rs2 : Reg) : EncodeRow.Statement (.mulw rd rs1 rs2) :=
  ⟨rowsMulDiv[8], mem_rowsMulDiv (List.getElem_mem _), fun v => via_word (or_and_zero _ _) (
    have h := row_R (r := rowsMulDiv[8]) (f7 := 0b0000001#7) (f3 := 0b000#3) (op := 0b0111011#7)
      rfl (by decide) rfl rd rs1 rs2
    ⟨h.1, fun _ => h.2⟩)⟩

theorem EncodeRow.divw (rd rs1 rs2 : Reg) : EncodeRow.Statement (.divw rd rs1 rs2) :=
  ⟨rowsMulDiv[9], mem_rowsMulDiv (List.getElem_mem _), fun v => via_word (or_and_zero _ _) (
    have h := row_R (r := rowsMulDiv[9]) (f7 := 0b0000001#7) (f3 := 0b100#3) (op := 0b0111011#7)
      rfl (by decide) rfl rd rs1 rs2
    ⟨h.1, fun _ => h.2⟩)⟩

theorem EncodeRow.divuw (rd rs1 rs2 : Reg) : EncodeRow.Statement (.divuw rd rs1 rs2) :=
  ⟨rowsMulDiv[10], mem_rowsMulDiv (List.getElem_mem _), fun v => via_word (or_and_zero _ _) (
    have h := row_R (r := rowsMulDiv[10]) (f7 := 0b0000001#7) (f3 := 0b101#3) (op := 0b0111011#7)
      rfl (by decide) rfl rd rs1 rs2
    ⟨h.1, fun _ => h.2⟩)⟩

theorem EncodeRow.remw (rd rs1 rs2 : Reg) : EncodeRow.Statement (.remw rd rs1 rs2) :=
  ⟨rowsMulDiv[11], mem_rowsMulDiv (List.getElem_mem _), fun v => via_word (or_and_zero _ _) (
    have h := row_R (r := rowsMulDiv[11]) (f7 := 0b0000001#7) (f3 := 0b110#3) (op := 0b0111011#7)
      rfl (by decide) rfl rd rs1 rs2
    ⟨h.1, fun _ => h.2⟩)⟩

theorem EncodeRow.remuw (rd rs1 rs2 : Reg) : EncodeRow.Statement (.remuw rd rs1 rs2) :=
  ⟨rowsMulDiv[12], mem_rowsMulDiv (List.getElem_mem _), fun v => via_word (or_and_zero _ _) (
    have h := row_R (r := rowsMulDiv[12]) (f7 := 0b0000001#7) (f3 := 0b111#3) (op := 0b0111011#7)
      rfl (by decide) rfl rd rs1 rs2
    ⟨h.1, fun _ => h.2⟩)⟩

theorem EncodeRow.lrW (rd rs1 : Reg) : EncodeRow.Statement (.lrW rd rs1) :=
  ⟨rowsAtomic[0], mem_rowsAtomic (List.getElem_mem _), fun v => via_word (encAmo_ignored _ _ _ _ _ _) (
    have h := row_LR (r := rowsAtomic[0]) (f5 := 0b00010#5) (sub := 0b00000#5) (f3 := 0b010#3) (op := 0b0101111#7)
      rfl (by decide) rfl rd rs1 (v.extractLsb' 25 2)
    ⟨h.1, fun _ => h.2⟩)⟩

theorem EncodeRow.scW (rd rs1 rs2 : Reg) : EncodeRow.Statement (.scW rd rs1 rs2) :=
  ⟨rowsAtomic[1], mem_rowsAtomic (List.getElem_mem _), fun v => via_word (encAmo_ignored _ _ _ _ _ _) (
    have h := row_AMO (r := rowsAtomic[1]) (f5 := 0b00011#5) (f3 := 0b010#3) (op := 0b0101111#7)
      rfl (by decide) rfl rd rs1 rs2 (v.extractLsb' 25 2)
    ⟨h.1, fun _ => h.2⟩)⟩

theorem EncodeRow.amoswapW (rd rs1 rs2 : Reg) : EncodeRow.Statement (.amoswapW rd rs1 rs2) :=
  ⟨rowsAtomic[2], mem_rowsAtomic (List.getElem_mem _), fun v => via_word (encAmo_ignored _ _ _ _ _ _) (
    have h := row_AMO (r := rowsAtomic[2]) (f5 := 0b00001#5) (f3 := 0b010#3) (op := 0b0101111#7)
      rfl (by decide) rfl rd rs1 rs2 (v.extractLsb' 25 2)
    ⟨h.1, fun _ => h.2⟩)⟩

theorem EncodeRow.amoaddW (rd rs1 rs2 : Reg) : EncodeRow.Statement (.amoaddW rd rs1 rs2) :=
  ⟨rowsAtomic[3], mem_rowsAtomic (List.getElem_mem _), fun v => via_word (encAmo_ignored _ _ _ _ _ _) (
    have h := row_AMO (r := rowsAtomic[3]) (f5 := 0b00000#5) (f3 := 0b010#3) (op := 0b0101111#7)
      rfl (by decide) rfl rd rs1 rs2 (v.extractLsb' 25 2)
    ⟨h.1, fun _ => h.2⟩)⟩

theorem EncodeRow.amoxorW (rd rs1 rs2 : Reg) : EncodeRow.Statement (.amoxorW rd rs1 rs2) :=
  ⟨rowsAtomic[4], mem_rowsAtomic (List.getElem_mem _), fun v => via_word (encAmo_ignored _ _ _ _ _ _) (
    have h := row_AMO (r := rowsAtomic[4]) (f5 := 0b00100#5) (f3 := 0b010#3) (op := 0b0101111#7)
      rfl (by decide) rfl rd rs1 rs2 (v.extractLsb' 25 2)
    ⟨h.1, fun _ => h.2⟩)⟩

theorem EncodeRow.amoandW (rd rs1 rs2 : Reg) : EncodeRow.Statement (.amoandW rd rs1 rs2) :=
  ⟨rowsAtomic[5], mem_rowsAtomic (List.getElem_mem _), fun v => via_word (encAmo_ignored _ _ _ _ _ _) (
    have h := row_AMO (r := rowsAtomic[5]) (f5 := 0b01100#5) (f3 := 0b010#3) (op := 0b0101111#7)
      rfl (by decide) rfl rd rs1 rs2 (v.extractLsb' 25 2)
    ⟨h.1, fun _ => h.2⟩)⟩

theorem EncodeRow.amoorW (rd rs1 rs2 : Reg) : EncodeRow.Statement (.amoorW rd rs1 rs2) :=
  ⟨rowsAtomic[6], mem_rowsAtomic (List.getElem_mem _), fun v => via_word (encAmo_ignored _ _ _ _ _ _) (
    have h := row_AMO (r := rowsAtomic[6]) (f5 := 0b01000#5) (f3 := 0b010#3) (op := 0b0101111#7)
      rfl (by decide) rfl rd rs1 rs2 (v.extractLsb' 25 2)
    ⟨h.1, fun _ => h.2⟩)⟩

theorem EncodeRow.amominW (rd rs1 rs2 : Reg) : EncodeRow.Statement (.amominW rd rs1 rs2) :=
  ⟨rowsAtomic[7], mem_rowsAtomic (List.getElem_mem _), fun v => via_word (encAmo_ignored _ _ _ _ _ _) (
    have h := row_AMO (r := rowsAtomic[7]) (f5 := 0b10000#5) (f3 := 0b010#3) (op := 0b0101111#7)
      rfl (by decide) rfl rd rs1 rs2 (v.extractLsb' 25 2)
    ⟨h.1, fun _ => h.2⟩)⟩

theorem EncodeRow.amomaxW (rd rs1 rs2 : Reg) : EncodeRow.Statement (.amomaxW rd rs1 rs2) :=
  ⟨rowsAtomic[8], mem_rowsAtomic (List.getElem_mem _), fun v => via_word (encAmo_ignored _ _ _ _ _ _) (
    have h := row_AMO (r := rowsAtomic[8]) (f5 := 0b10100#5) (f3 := 0b010#3) (op := 0b0101111#7)
      rfl (by decide) rfl rd rs1 rs2 (v.extractLsb' 25 2)
    ⟨h.1, fun _ => h.2⟩)⟩

theorem EncodeRow.amominuW (rd rs1 rs2 : Reg) : EncodeRow.Statement (.amominuW rd rs1 rs2) :=
  ⟨rowsAtomic[9], mem_rowsAtomic (List.getElem_mem _), fun v => via_word (encAmo_ignored _ _ _ _ _ _) (
    have h := row_AMO (r := rowsAtomic[9]) (f5 := 0b11000#5) (f3 := 0b010#3) (op := 0b0101111#7)
      rfl (by decide) rfl rd rs1 rs2 (v.extractLsb' 25 2)
    ⟨h.1, fun _ => h.2⟩)⟩

theorem EncodeRow.amomaxuW (rd rs1 rs2 : Reg) : EncodeRow.Statement (.amomaxuW rd rs1 rs2) :=
  ⟨rowsAtomic[10], mem_rowsAtomic (List.getElem_mem _), fun v => via_word (encAmo_ignored _ _ _ _ _ _) (
    have h := row_AMO (r := rowsAtomic[10]) (f5 := 0b11100#5) (f3 := 0b010#3) (op := 0b0101111#7)
      rfl (by decide) rfl rd rs1 rs2 (v.extractLsb' 25 2)
    ⟨h.1, fun _ => h.2⟩)⟩

theorem EncodeRow.lrD (rd rs1 : Reg) : EncodeRow.Statement (.lrD rd rs1) :=
  ⟨rowsAtomic[11], mem_rowsAtomic (List.getElem_mem _), fun v => via_word (encAmo_ignored _ _ _ _ _ _) (
    have h := row_LR (r := rowsAtomic[11]) (f5 := 0b00010#5) (sub := 0b00000#5) (f3 := 0b011#3) (op := 0b0101111#7)
      rfl (by decide) rfl rd rs1 (v.extractLsb' 25 2)
    ⟨h.1, fun _ => h.2⟩)⟩

theorem EncodeRow.scD (rd rs1 rs2 : Reg) : EncodeRow.Statement (.scD rd rs1 rs2) :=
  ⟨rowsAtomic[12], mem_rowsAtomic (List.getElem_mem _), fun v => via_word (encAmo_ignored _ _ _ _ _ _) (
    have h := row_AMO (r := rowsAtomic[12]) (f5 := 0b00011#5) (f3 := 0b011#3) (op := 0b0101111#7)
      rfl (by decide) rfl rd rs1 rs2 (v.extractLsb' 25 2)
    ⟨h.1, fun _ => h.2⟩)⟩

theorem EncodeRow.amoswapD (rd rs1 rs2 : Reg) : EncodeRow.Statement (.amoswapD rd rs1 rs2) :=
  ⟨rowsAtomic[13], mem_rowsAtomic (List.getElem_mem _), fun v => via_word (encAmo_ignored _ _ _ _ _ _) (
    have h := row_AMO (r := rowsAtomic[13]) (f5 := 0b00001#5) (f3 := 0b011#3) (op := 0b0101111#7)
      rfl (by decide) rfl rd rs1 rs2 (v.extractLsb' 25 2)
    ⟨h.1, fun _ => h.2⟩)⟩

theorem EncodeRow.amoaddD (rd rs1 rs2 : Reg) : EncodeRow.Statement (.amoaddD rd rs1 rs2) :=
  ⟨rowsAtomic[14], mem_rowsAtomic (List.getElem_mem _), fun v => via_word (encAmo_ignored _ _ _ _ _ _) (
    have h := row_AMO (r := rowsAtomic[14]) (f5 := 0b00000#5) (f3 := 0b011#3) (op := 0b0101111#7)
      rfl (by decide) rfl rd rs1 rs2 (v.extractLsb' 25 2)
    ⟨h.1, fun _ => h.2⟩)⟩

theorem EncodeRow.amoxorD (rd rs1 rs2 : Reg) : EncodeRow.Statement (.amoxorD rd rs1 rs2) :=
  ⟨rowsAtomic[15], mem_rowsAtomic (List.getElem_mem _), fun v => via_word (encAmo_ignored _ _ _ _ _ _) (
    have h := row_AMO (r := rowsAtomic[15]) (f5 := 0b00100#5) (f3 := 0b011#3) (op := 0b0101111#7)
      rfl (by decide) rfl rd rs1 rs2 (v.extractLsb' 25 2)
    ⟨h.1, fun _ => h.2⟩)⟩

theorem EncodeRow.amoandD (rd rs1 rs2 : Reg) : EncodeRow.Statement (.amoandD rd rs1 rs2) :=
  ⟨rowsAtomic[16], mem_rowsAtomic (List.getElem_mem _), fun v => via_word (encAmo_ignored _ _ _ _ _ _) (
    have h := row_AMO (r := rowsAtomic[16]) (f5 := 0b01100#5) (f3 := 0b011#3) (op := 0b0101111#7)
      rfl (by decide) rfl rd rs1 rs2 (v.extractLsb' 25 2)
    ⟨h.1, fun _ => h.2⟩)⟩

theorem EncodeRow.amoorD (rd rs1 rs2 : Reg) : EncodeRow.Statement (.amoorD rd rs1 rs2) :=
  ⟨rowsAtomic[17], mem_rowsAtomic (List.getElem_mem _), fun v => via_word (encAmo_ignored _ _ _ _ _ _) (
    have h := row_AMO (r := rowsAtomic[17]) (f5 := 0b01000#5) (f3 := 0b011#3) (op := 0b0101111#7)
      rfl (by decide) rfl rd rs1 rs2 (v.extractLsb' 25 2)
    ⟨h.1, fun _ => h.2⟩)⟩

theorem EncodeRow.amominD (rd rs1 rs2 : Reg) : EncodeRow.Statement (.amominD rd rs1 rs2) :=
  ⟨rowsAtomic[18], mem_rowsAtomic (List.getElem_mem _), fun v => via_word (encAmo_ignored _ _ _ _ _ _) (
    have h := row_AMO (r := rowsAtomic[18]) (f5 := 0b10000#5) (f3 := 0b011#3) (op := 0b0101111#7)
      rfl (by decide) rfl rd rs1 rs2 (v.extractLsb' 25 2)
    ⟨h.1, fun _ => h.2⟩)⟩

theorem EncodeRow.amomaxD (rd rs1 rs2 : Reg) : EncodeRow.Statement (.amomaxD rd rs1 rs2) :=
  ⟨rowsAtomic[19], mem_rowsAtomic (List.getElem_mem _), fun v => via_word (encAmo_ignored _ _ _ _ _ _) (
    have h := row_AMO (r := rowsAtomic[19]) (f5 := 0b10100#5) (f3 := 0b011#3) (op := 0b0101111#7)
      rfl (by decide) rfl rd rs1 rs2 (v.extractLsb' 25 2)
    ⟨h.1, fun _ => h.2⟩)⟩

theorem EncodeRow.amominuD (rd rs1 rs2 : Reg) : EncodeRow.Statement (.amominuD rd rs1 rs2) :=
  ⟨rowsAtomic[20], mem_rowsAtomic (List.getElem_mem _), fun v => via_word (encAmo_ignored _ _ _ _ _ _) (
    have h := row_AMO (r := rowsAtomic[20]) (f5 := 0b11000#5) (f3 := 0b011#3) (op := 0b0101111#7)
      rfl (by decide) rfl rd rs1 rs2 (v.extractLsb' 25 2)
    ⟨h.1, fun _ => h.2⟩)⟩

theorem EncodeRow.amomaxuD (rd rs1 rs2 : Reg) : EncodeRow.Statement (.amomaxuD rd rs1 rs2) :=
  ⟨rowsAtomic[21], mem_rowsAtomic (List.getElem_mem _), fun v => via_word (encAmo_ignored _ _ _ _ _ _) (
    have h := row_AMO (r := rowsAtomic[21]) (f5 := 0b11100#5) (f3 := 0b011#3) (op := 0b0101111#7)
      rfl (by decide) rfl rd rs1 rs2 (v.extractLsb' 25 2)
    ⟨h.1, fun _ => h.2⟩)⟩

theorem EncodeRow.flw (rd rs1 : Reg) (imm : Word) : EncodeRow.Statement (.flw rd rs1 imm) :=
  ⟨rowsFloat[0], mem_rowsFloat (List.getElem_mem _), fun v => via_word (or_and_zero _ _) (
    have h := row_I (r := rowsFloat[0]) (f3 := 0b010#3) (op := 0b0000111#7)
      rfl (by decide) rfl rd rs1 imm
    h)⟩

theorem EncodeRow.fsw (rs1 rs2 : Reg) (imm : Word) : EncodeRow.Statement (.fsw rs1 rs2 imm) :=
  ⟨rowsFloat[1], mem_rowsFloat (List.getElem_mem _), fun v => via_word (or_and_zero _ _) (
    have h := row_S (r := rowsFloat[1]) (f3 := 0b010#3) (op := 0b0100111#7)
      rfl (by decide) rfl rs1 rs2 imm
    h)⟩

theorem EncodeRow.fmaddS (rd rs1 rs2 rs3 : Reg) : EncodeRow.Statement (.fmaddS rd rs1 rs2 rs3) :=
  ⟨rowsFloat[2], mem_rowsFloat (List.getElem_mem _), fun v => via_word (encR4_ignored _ _ _ _ _ _ _) (
    have h := row_R4 (r := rowsFloat[2]) (f2 := 0b00#2) (op := 0b1000011#7)
      rfl (by decide) rfl rd rs1 rs2 rs3 (v.extractLsb' 12 3)
    ⟨h.1, fun _ => h.2⟩)⟩

theorem EncodeRow.fmsubS (rd rs1 rs2 rs3 : Reg) : EncodeRow.Statement (.fmsubS rd rs1 rs2 rs3) :=
  ⟨rowsFloat[3], mem_rowsFloat (List.getElem_mem _), fun v => via_word (encR4_ignored _ _ _ _ _ _ _) (
    have h := row_R4 (r := rowsFloat[3]) (f2 := 0b00#2) (op := 0b1000111#7)
      rfl (by decide) rfl rd rs1 rs2 rs3 (v.extractLsb' 12 3)
    ⟨h.1, fun _ => h.2⟩)⟩

theorem EncodeRow.fnmsubS (rd rs1 rs2 rs3 : Reg) : EncodeRow.Statement (.fnmsubS rd rs1 rs2 rs3) :=
  ⟨rowsFloat[4], mem_rowsFloat (List.getElem_mem _), fun v => via_word (encR4_ignored _ _ _ _ _ _ _) (
    have h := row_R4 (r := rowsFloat[4]) (f2 := 0b00#2) (op := 0b1001011#7)
      rfl (by decide) rfl rd rs1 rs2 rs3 (v.extractLsb' 12 3)
    ⟨h.1, fun _ => h.2⟩)⟩

theorem EncodeRow.fnmaddS (rd rs1 rs2 rs3 : Reg) : EncodeRow.Statement (.fnmaddS rd rs1 rs2 rs3) :=
  ⟨rowsFloat[5], mem_rowsFloat (List.getElem_mem _), fun v => via_word (encR4_ignored _ _ _ _ _ _ _) (
    have h := row_R4 (r := rowsFloat[5]) (f2 := 0b00#2) (op := 0b1001111#7)
      rfl (by decide) rfl rd rs1 rs2 rs3 (v.extractLsb' 12 3)
    ⟨h.1, fun _ => h.2⟩)⟩

theorem EncodeRow.faddS (rd rs1 rs2 : Reg) : EncodeRow.Statement (.faddS rd rs1 rs2) :=
  ⟨rowsFloat[6], mem_rowsFloat (List.getElem_mem _), fun v => via_word (encR_ignored _ _ _ _ _ _) (
    have h := row_Rrm (r := rowsFloat[6]) (f7 := 0b0000000#7) (op := 0b1010011#7)
      rfl (by decide) rfl rd rs1 rs2 (v.extractLsb' 12 3)
    ⟨h.1, fun _ => h.2⟩)⟩

theorem EncodeRow.fsubS (rd rs1 rs2 : Reg) : EncodeRow.Statement (.fsubS rd rs1 rs2) :=
  ⟨rowsFloat[7], mem_rowsFloat (List.getElem_mem _), fun v => via_word (encR_ignored _ _ _ _ _ _) (
    have h := row_Rrm (r := rowsFloat[7]) (f7 := 0b0000100#7) (op := 0b1010011#7)
      rfl (by decide) rfl rd rs1 rs2 (v.extractLsb' 12 3)
    ⟨h.1, fun _ => h.2⟩)⟩

theorem EncodeRow.fmulS (rd rs1 rs2 : Reg) : EncodeRow.Statement (.fmulS rd rs1 rs2) :=
  ⟨rowsFloat[8], mem_rowsFloat (List.getElem_mem _), fun v => via_word (encR_ignored _ _ _ _ _ _) (
    have h := row_Rrm (r := rowsFloat[8]) (f7 := 0b0001000#7) (op := 0b1010011#7)
      rfl (by decide) rfl rd rs1 rs2 (v.extractLsb' 12 3)
    ⟨h.1, fun _ => h.2⟩)⟩

theorem EncodeRow.fdivS (rd rs1 rs2 : Reg) : EncodeRow.Statement (.fdivS rd rs1 rs2) :=
  ⟨rowsFloat[9], mem_rowsFloat (List.getElem_mem _), fun v => via_word (encR_ignored _ _ _ _ _ _) (
    have h := row_Rrm (r := rowsFloat[9]) (f7 := 0b0001100#7) (op := 0b1010011#7)
      rfl (by decide) rfl rd rs1 rs2 (v.extractLsb' 12 3)
    ⟨h.1, fun _ => h.2⟩)⟩

theorem EncodeRow.fsqrtS (rd rs1 : Reg) : EncodeRow.Statement (.fsqrtS rd rs1) :=
  ⟨rowsFloat[10], mem_rowsFloat (List.getElem_mem _), fun v => via_word (encR_ignored _ _ _ _ _ _) (
    have h := row_R1rm (r := rowsFloat[10]) (f7 := 0b0101100#7) (sub := 0b00000#5) (op := 0b1010011#7)
      rfl (by decide) rfl rd rs1 (v.extractLsb' 12 3)
    ⟨h.1, fun _ => h.2⟩)⟩

theorem EncodeRow.fsgnjS (rd rs1 rs2 : Reg) : EncodeRow.Statement (.fsgnjS rd rs1 rs2) :=
  ⟨rowsFloat[11], mem_rowsFloat (List.getElem_mem _), fun v => via_word (or_and_zero _ _) (
    have h := row_R (r := rowsFloat[11]) (f7 := 0b0010000#7) (f3 := 0b000#3) (op := 0b1010011#7)
      rfl (by decide) rfl rd rs1 rs2
    ⟨h.1, fun _ => h.2⟩)⟩

theorem EncodeRow.fsgnjnS (rd rs1 rs2 : Reg) : EncodeRow.Statement (.fsgnjnS rd rs1 rs2) :=
  ⟨rowsFloat[12], mem_rowsFloat (List.getElem_mem _), fun v => via_word (or_and_zero _ _) (
    have h := row_R (r := rowsFloat[12]) (f7 := 0b0010000#7) (f3 := 0b001#3) (op := 0b1010011#7)
      rfl (by decide) rfl rd rs1 rs2
    ⟨h.1, fun _ => h.2⟩)⟩

theorem EncodeRow.fsgnjxS (rd rs1 rs2 : Reg) : EncodeRow.Statement (.fsgnjxS rd rs1 rs2) :=
  ⟨rowsFloat[13], mem_rowsFloat (List.getElem_mem _), fun v => via_word (or_and_zero _ _) (
    have h := row_R (r := rowsFloat[13]) (f7 := 0b0010000#7) (f3 := 0b010#3) (op := 0b1010011#7)
      rfl (by decide) rfl rd rs1 rs2
    ⟨h.1, fun _ => h.2⟩)⟩

theorem EncodeRow.fminS (rd rs1 rs2 : Reg) : EncodeRow.Statement (.fminS rd rs1 rs2) :=
  ⟨rowsFloat[14], mem_rowsFloat (List.getElem_mem _), fun v => via_word (or_and_zero _ _) (
    have h := row_R (r := rowsFloat[14]) (f7 := 0b0010100#7) (f3 := 0b000#3) (op := 0b1010011#7)
      rfl (by decide) rfl rd rs1 rs2
    ⟨h.1, fun _ => h.2⟩)⟩

theorem EncodeRow.fmaxS (rd rs1 rs2 : Reg) : EncodeRow.Statement (.fmaxS rd rs1 rs2) :=
  ⟨rowsFloat[15], mem_rowsFloat (List.getElem_mem _), fun v => via_word (or_and_zero _ _) (
    have h := row_R (r := rowsFloat[15]) (f7 := 0b0010100#7) (f3 := 0b001#3) (op := 0b1010011#7)
      rfl (by decide) rfl rd rs1 rs2
    ⟨h.1, fun _ => h.2⟩)⟩

theorem EncodeRow.fcvtWS (rd rs1 : Reg) : EncodeRow.Statement (.fcvtWS rd rs1) :=
  ⟨rowsFloat[16], mem_rowsFloat (List.getElem_mem _), fun v => via_word (encR_ignored _ _ _ _ _ _) (
    have h := row_R1rm (r := rowsFloat[16]) (f7 := 0b1100000#7) (sub := 0b00000#5) (op := 0b1010011#7)
      rfl (by decide) rfl rd rs1 (v.extractLsb' 12 3)
    ⟨h.1, fun _ => h.2⟩)⟩

theorem EncodeRow.fcvtWuS (rd rs1 : Reg) : EncodeRow.Statement (.fcvtWuS rd rs1) :=
  ⟨rowsFloat[17], mem_rowsFloat (List.getElem_mem _), fun v => via_word (encR_ignored _ _ _ _ _ _) (
    have h := row_R1rm (r := rowsFloat[17]) (f7 := 0b1100000#7) (sub := 0b00001#5) (op := 0b1010011#7)
      rfl (by decide) rfl rd rs1 (v.extractLsb' 12 3)
    ⟨h.1, fun _ => h.2⟩)⟩

theorem EncodeRow.fcvtLS (rd rs1 : Reg) : EncodeRow.Statement (.fcvtLS rd rs1) :=
  ⟨rowsFloat[18], mem_rowsFloat (List.getElem_mem _), fun v => via_word (encR_ignored _ _ _ _ _ _) (
    have h := row_R1rm (r := rowsFloat[18]) (f7 := 0b1100000#7) (sub := 0b00010#5) (op := 0b1010011#7)
      rfl (by decide) rfl rd rs1 (v.extractLsb' 12 3)
    ⟨h.1, fun _ => h.2⟩)⟩

theorem EncodeRow.fcvtLuS (rd rs1 : Reg) : EncodeRow.Statement (.fcvtLuS rd rs1) :=
  ⟨rowsFloat[19], mem_rowsFloat (List.getElem_mem _), fun v => via_word (encR_ignored _ _ _ _ _ _) (
    have h := row_R1rm (r := rowsFloat[19]) (f7 := 0b1100000#7) (sub := 0b00011#5) (op := 0b1010011#7)
      rfl (by decide) rfl rd rs1 (v.extractLsb' 12 3)
    ⟨h.1, fun _ => h.2⟩)⟩

theorem EncodeRow.fmvXW (rd rs1 : Reg) : EncodeRow.Statement (.fmvXW rd rs1) :=
  ⟨rowsFloat[20], mem_rowsFloat (List.getElem_mem _), fun v => via_word (or_and_zero _ _) (
    have h := row_R1 (r := rowsFloat[20]) (f7 := 0b1110000#7) (sub := 0b00000#5) (f3 := 0b000#3) (op := 0b1010011#7)
      rfl (by decide) rfl rd rs1
    ⟨h.1, fun _ => h.2⟩)⟩

theorem EncodeRow.feqS (rd rs1 rs2 : Reg) : EncodeRow.Statement (.feqS rd rs1 rs2) :=
  ⟨rowsFloat[21], mem_rowsFloat (List.getElem_mem _), fun v => via_word (or_and_zero _ _) (
    have h := row_R (r := rowsFloat[21]) (f7 := 0b1010000#7) (f3 := 0b010#3) (op := 0b1010011#7)
      rfl (by decide) rfl rd rs1 rs2
    ⟨h.1, fun _ => h.2⟩)⟩

theorem EncodeRow.fltS (rd rs1 rs2 : Reg) : EncodeRow.Statement (.fltS rd rs1 rs2) :=
  ⟨rowsFloat[22], mem_rowsFloat (List.getElem_mem _), fun v => via_word (or_and_zero _ _) (
    have h := row_R (r := rowsFloat[22]) (f7 := 0b1010000#7) (f3 := 0b001#3) (op := 0b1010011#7)
      rfl (by decide) rfl rd rs1 rs2
    ⟨h.1, fun _ => h.2⟩)⟩

theorem EncodeRow.fleS (rd rs1 rs2 : Reg) : EncodeRow.Statement (.fleS rd rs1 rs2) :=
  ⟨rowsFloat[23], mem_rowsFloat (List.getElem_mem _), fun v => via_word (or_and_zero _ _) (
    have h := row_R (r := rowsFloat[23]) (f7 := 0b1010000#7) (f3 := 0b000#3) (op := 0b1010011#7)
      rfl (by decide) rfl rd rs1 rs2
    ⟨h.1, fun _ => h.2⟩)⟩

theorem EncodeRow.fclassS (rd rs1 : Reg) : EncodeRow.Statement (.fclassS rd rs1) :=
  ⟨rowsFloat[24], mem_rowsFloat (List.getElem_mem _), fun v => via_word (or_and_zero _ _) (
    have h := row_R1 (r := rowsFloat[24]) (f7 := 0b1110000#7) (sub := 0b00000#5) (f3 := 0b001#3) (op := 0b1010011#7)
      rfl (by decide) rfl rd rs1
    ⟨h.1, fun _ => h.2⟩)⟩

theorem EncodeRow.fcvtSW (rd rs1 : Reg) (rm : RmField) : EncodeRow.Statement (.fcvtSW rd rs1 rm) :=
  ⟨rowsFloat[25], mem_rowsFloat (List.getElem_mem _), fun v => via_word (or_and_zero _ _) (
    have h := row_RM (r := rowsFloat[25]) (f7 := 0b1101000#7) (sub := 0b00000#5) (op := 0b1010011#7)
      rfl (by decide) rfl rd rs1 rm
    ⟨h.1, fun _ => h.2⟩)⟩

theorem EncodeRow.fcvtSWu (rd rs1 : Reg) (rm : RmField) : EncodeRow.Statement (.fcvtSWu rd rs1 rm) :=
  ⟨rowsFloat[26], mem_rowsFloat (List.getElem_mem _), fun v => via_word (or_and_zero _ _) (
    have h := row_RM (r := rowsFloat[26]) (f7 := 0b1101000#7) (sub := 0b00001#5) (op := 0b1010011#7)
      rfl (by decide) rfl rd rs1 rm
    ⟨h.1, fun _ => h.2⟩)⟩

theorem EncodeRow.fcvtSL (rd rs1 : Reg) (rm : RmField) : EncodeRow.Statement (.fcvtSL rd rs1 rm) :=
  ⟨rowsFloat[27], mem_rowsFloat (List.getElem_mem _), fun v => via_word (or_and_zero _ _) (
    have h := row_RM (r := rowsFloat[27]) (f7 := 0b1101000#7) (sub := 0b00010#5) (op := 0b1010011#7)
      rfl (by decide) rfl rd rs1 rm
    ⟨h.1, fun _ => h.2⟩)⟩

theorem EncodeRow.fcvtSLu (rd rs1 : Reg) (rm : RmField) : EncodeRow.Statement (.fcvtSLu rd rs1 rm) :=
  ⟨rowsFloat[28], mem_rowsFloat (List.getElem_mem _), fun v => via_word (or_and_zero _ _) (
    have h := row_RM (r := rowsFloat[28]) (f7 := 0b1101000#7) (sub := 0b00011#5) (op := 0b1010011#7)
      rfl (by decide) rfl rd rs1 rm
    ⟨h.1, fun _ => h.2⟩)⟩

theorem EncodeRow.fmvWX (rd rs1 : Reg) : EncodeRow.Statement (.fmvWX rd rs1) :=
  ⟨rowsFloat[29], mem_rowsFloat (List.getElem_mem _), fun v => via_word (or_and_zero _ _) (
    have h := row_R1 (r := rowsFloat[29]) (f7 := 0b1111000#7) (sub := 0b00000#5) (f3 := 0b000#3) (op := 0b1010011#7)
      rfl (by decide) rfl rd rs1
    ⟨h.1, fun _ => h.2⟩)⟩

end Sys2Proof.Laws
end

