-- ==== Sys2Proof/Tests/Slice0.lean ====
section
/-! SUPPORT. The model's own tests. Words and expected results come from the spec's test vectors and examples
(spec/95_test_vectors.md, the Example lines of files 30 to 60), not from the model. Then, for every statement with
hypotheses, a concrete case that meets them. -/

namespace Sys2Proof.Tests

open Machine Claims

/-! ### Decoding: a word of every row, with the operands its assembly text names (R98 to R114) -/

theorem test_decode_control :
  decode 0x800002B7#32 = .ok (.lui 5 (-524288)) ∧
  decode 0x00000297#32 = .ok (.auipc 5 0) ∧
  decode 0x008000EF#32 = .ok (.jal 1 8) ∧
  decode 0x000280E7#32 = .ok (.jalr 1 5 0) ∧
  decode 0x00000463#32 = .ok (.beq 0 0 4) ∧
  decode 0x00001863#32 = .ok (.bne 0 0 8) ∧
  decode 0x7E62CFE3#32 = .ok (.blt 5 6 2047) ∧
  decode 0x8062D063#32 = .ok (.bge 5 6 (-2048)) ∧
  decode 0x0062E463#32 = .ok (.bltu 5 6 4) ∧
  decode 0x0062F463#32 = .ok (.bgeu 5 6 4) := by
  decide +kernel

theorem test_decode_load_store :
  decode 0x00000383#32 = .ok (.lb 7 0 0) ∧
  decode 0x00631283#32 = .ok (.lh 5 6 6) ∧
  decode 0x00432283#32 = .ok (.lw 5 6 4) ∧
  decode 0x00033283#32 = .ok (.ld 5 6 0) ∧
  decode 0x00004383#32 = .ok (.lbu 7 0 0) ∧
  decode 0x00635283#32 = .ok (.lhu 5 6 6) ∧
  decode 0x00436283#32 = .ok (.lwu 5 6 4) ∧
  decode 0x00600023#32 = .ok (.sb 0 6 0) ∧
  decode 0x007311A3#32 = .ok (.sh 6 7 3) ∧
  decode 0x00732223#32 = .ok (.sw 6 7 4) ∧
  decode 0xFE733C23#32 = .ok (.sd 6 7 (-8)) := by
  decide +kernel

theorem test_decode_immediate :
  decode 0x00108093#32 = .ok (.addi 1 1 1) ∧
  decode 0xFFF32293#32 = .ok (.slti 5 6 (-1)) ∧
  decode 0xFFF33293#32 = .ok (.sltiu 5 6 (-1)) ∧
  decode 0xFFF34293#32 = .ok (.xori 5 6 (-1)) ∧
  decode 0x80036293#32 = .ok (.ori 5 6 (-2048)) ∧
  decode 0xFF037293#32 = .ok (.andi 5 6 (-16)) ∧
  decode 0x03F31293#32 = .ok (.slli 5 6 63) ∧
  decode 0x03F35293#32 = .ok (.srli 5 6 63) ∧
  decode 0x43F35293#32 = .ok (.srai 5 6 63) ∧
  decode 0x0013029B#32 = .ok (.addiw 5 6 1) ∧
  decode 0x01F3129B#32 = .ok (.slliw 5 6 31) ∧
  decode 0x0003529B#32 = .ok (.srliw 5 6 0) ∧
  decode 0x41F3529B#32 = .ok (.sraiw 5 6 31) := by
  decide +kernel

theorem test_decode_register :
  decode 0x002081B3#32 = .ok (.add 3 1 2) ∧
  decode 0x402081B3#32 = .ok (.sub 3 1 2) ∧
  decode 0x007312B3#32 = .ok (.sll 5 6 7) ∧
  decode 0x007322B3#32 = .ok (.slt 5 6 7) ∧
  decode 0x007332B3#32 = .ok (.sltu 5 6 7) ∧
  decode 0x007342B3#32 = .ok (.xor 5 6 7) ∧
  decode 0x007352B3#32 = .ok (.srl 5 6 7) ∧
  decode 0x407352B3#32 = .ok (.sra 5 6 7) ∧
  decode 0x007362B3#32 = .ok (.or 5 6 7) ∧
  decode 0x007372B3#32 = .ok (.and 5 6 7) ∧
  decode 0x002081BB#32 = .ok (.addw 3 1 2) ∧
  decode 0x407302BB#32 = .ok (.subw 5 6 7) ∧
  decode 0x007312BB#32 = .ok (.sllw 5 6 7) ∧
  decode 0x007352BB#32 = .ok (.srlw 5 6 7) ∧
  decode 0x407352BB#32 = .ok (.sraw 5 6 7) := by
  decide +kernel

theorem test_decode_mul_div :
  decode 0x027302B3#32 = .ok (.mul 5 6 7) ∧
  decode 0x027312B3#32 = .ok (.mulh 5 6 7) ∧
  decode 0x027322B3#32 = .ok (.mulhsu 5 6 7) ∧
  decode 0x0220B1B3#32 = .ok (.mulhu 3 1 2) ∧
  decode 0x027342B3#32 = .ok (.div 5 6 7) ∧
  decode 0x027352B3#32 = .ok (.divu 5 6 7) ∧
  decode 0x027362B3#32 = .ok (.rem 5 6 7) ∧
  decode 0x027372B3#32 = .ok (.remu 5 6 7) ∧
  decode 0x027302BB#32 = .ok (.mulw 5 6 7) ∧
  decode 0x027342BB#32 = .ok (.divw 5 6 7) ∧
  decode 0x027352BB#32 = .ok (.divuw 5 6 7) ∧
  decode 0x027362BB#32 = .ok (.remw 5 6 7) ∧
  decode 0x027372BB#32 = .ok (.remuw 5 6 7) := by
  decide +kernel

theorem test_decode_csr_fence :
  decode 0x0FF0000F#32 = .ok (.fence) ∧
  decode 0x0000100F#32 = .ok (.fenceI) ∧
  decode 0x340312F3#32 = .ok (.csrrw 5 6 0x340) ∧
  decode 0x340022F3#32 = .ok (.csrrs 5 0 0x340) ∧
  decode 0x340332F3#32 = .ok (.csrrc 5 6 0x340) ∧
  decode 0x340AD2F3#32 = .ok (.csrrwi 5 21 0x340) ∧
  decode 0x3404E2F3#32 = .ok (.csrrsi 5 9 0x340) ∧
  decode 0x340C72F3#32 = .ok (.csrrci 5 24 0x340) := by
  decide +kernel

theorem test_decode_atomic :
  decode 0x1003A2AF#32 = .ok (.lrW 5 7) ∧
  decode 0x1863A2AF#32 = .ok (.scW 5 7 6) ∧
  decode 0x0863A2AF#32 = .ok (.amoswapW 5 7 6) ∧
  decode 0x0063A2AF#32 = .ok (.amoaddW 5 7 6) ∧
  decode 0x2063A2AF#32 = .ok (.amoxorW 5 7 6) ∧
  decode 0x6063A2AF#32 = .ok (.amoandW 5 7 6) ∧
  decode 0x4063A2AF#32 = .ok (.amoorW 5 7 6) ∧
  decode 0x8063A2AF#32 = .ok (.amominW 5 7 6) ∧
  decode 0xA063A2AF#32 = .ok (.amomaxW 5 7 6) ∧
  decode 0xC063A2AF#32 = .ok (.amominuW 5 7 6) ∧
  decode 0xE063A2AF#32 = .ok (.amomaxuW 5 7 6) ∧
  decode 0x1003B2AF#32 = .ok (.lrD 5 7) ∧
  decode 0x1863B2AF#32 = .ok (.scD 5 7 6) ∧
  decode 0x0863B2AF#32 = .ok (.amoswapD 5 7 6) ∧
  decode 0x0063B2AF#32 = .ok (.amoaddD 5 7 6) ∧
  decode 0x2063B2AF#32 = .ok (.amoxorD 5 7 6) ∧
  decode 0x6063B2AF#32 = .ok (.amoandD 5 7 6) ∧
  decode 0x4063B2AF#32 = .ok (.amoorD 5 7 6) ∧
  decode 0x8063B2AF#32 = .ok (.amominD 5 7 6) ∧
  decode 0xA063B2AF#32 = .ok (.amomaxD 5 7 6) ∧
  decode 0xC063B2AF#32 = .ok (.amominuD 5 7 6) ∧
  decode 0xE063B2AF#32 = .ok (.amomaxuD 5 7 6) := by
  decide +kernel

theorem test_decode_float :
  decode 0x00432087#32 = .ok (.flw 1 6 4) ∧
  decode 0x00232027#32 = .ok (.fsw 6 2 0) ∧
  decode 0x18208243#32 = .ok (.fmaddS 4 1 2 3) ∧
  decode 0x18208247#32 = .ok (.fmsubS 4 1 2 3) ∧
  decode 0x1820824B#32 = .ok (.fnmsubS 4 1 2 3) ∧
  decode 0x1820824F#32 = .ok (.fnmaddS 4 1 2 3) ∧
  decode 0x002081D3#32 = .ok (.faddS 3 1 2) ∧
  decode 0x082081D3#32 = .ok (.fsubS 3 1 2) ∧
  decode 0x102081D3#32 = .ok (.fmulS 3 1 2) ∧
  decode 0x182081D3#32 = .ok (.fdivS 3 1 2) ∧
  decode 0x580081D3#32 = .ok (.fsqrtS 3 1) ∧
  decode 0x202081D3#32 = .ok (.fsgnjS 3 1 2) ∧
  decode 0x201091D3#32 = .ok (.fsgnjnS 3 1 1) ∧
  decode 0x2010A1D3#32 = .ok (.fsgnjxS 3 1 1) ∧
  decode 0x282081D3#32 = .ok (.fminS 3 1 2) ∧
  decode 0x282091D3#32 = .ok (.fmaxS 3 1 2) ∧
  decode 0xC00082D3#32 = .ok (.fcvtWS 5 1) ∧
  decode 0xC01092D3#32 = .ok (.fcvtWuS 5 1) ∧
  decode 0xC02092D3#32 = .ok (.fcvtLS 5 1) ∧
  decode 0xC03092D3#32 = .ok (.fcvtLuS 5 1) ∧
  decode 0xE0008353#32 = .ok (.fmvXW 6 1) ∧
  decode 0xA020A2D3#32 = .ok (.feqS 5 1 2) ∧
  decode 0xA02092D3#32 = .ok (.fltS 5 1 2) ∧
  decode 0xA02082D3#32 = .ok (.fleS 5 1 2) ∧
  decode 0xE00092D3#32 = .ok (.fclassS 5 1) ∧
  decode 0xD00280D3#32 = .ok (.fcvtSW 1 5 (.static .rne)) ∧
  decode 0xD01280D3#32 = .ok (.fcvtSWu 1 5 (.static .rne)) ∧
  decode 0xD02280D3#32 = .ok (.fcvtSL 1 5 (.static .rne)) ∧
  decode 0xD03280D3#32 = .ok (.fcvtSLu 1 5 (.static .rne)) ∧
  decode 0xF00280D3#32 = .ok (.fmvWX 1 5) := by
  decide +kernel

/-! ### One step each, from the start states of spec/95_test_vectors.md -/

/-- One piece of a start or end state: a register, a CSR, or n bytes of memory read little-endian. -/
inductive Piece where
  | x (r : Reg) (v : Word)
  | f (r : Reg) (v : Word)
  | csr (a : CsrIndex) (v : Word)
  | mem (n a : Nat) (v : Word)

/-- The start state of the vectors: MEM_SIZE 0x2000, pc 0x1000, zeros, and the pieces named. -/
def start (ps : List Piece) : State :=
  ps.foldl (fun s p => match p with
    | .x r v => s.writeX r v
    | .f r v => s.writeF r v
    | .csr a v => s.writeCsr a v
    | .mem n a v => { s with mem := s.mem.setBytes a n v })
    { State.resetWith ⟨⟨0x2000, []⟩, 0, Vector.replicate 32 0⟩ with pc := 0x1000 }

/-- The piece is so in the state. -/
def Piece.holds (t : State) : Piece → Bool
  | .x r v => t.readX r == v
  | .f r v => t.readF r == v
  | .csr a v => t.readCsr a == v
  | .mem n a v => t.mem.leValue a n == v.toNat

/-- One step on the word from the start ends with this pc and these pieces. -/
def gives (w : Nat) (ps : List Piece) (pc : Word) (qs : List Piece) : Bool :=
  match step ((start ps).withFetchWord 32 w) with
  | .next t => t.pc == pc && qs.all (Piece.holds t)
  | _ => false

/-- One step on the word from the start raises the condition. -/
def raises (w : Nat) (ps : List Piece) (c : Fault) : Bool :=
  match step ((start ps).withFetchWord 32 w) with
  | .fault d => d == c
  | _ => false

theorem test_step_control :
  gives 0x000002B7 [.x 5 0xFFFFFFFFFFFFFFFF] 0x1004 [.x 5 0x0] ∧
  gives 0x80000297 [] 0x1004 [.x 5 0xFFFFFFFF80001000] ∧
  gives 0x002000EF [] 0x1002 [.x 1 0x1004] ∧
  gives 0x800280E7 [.x 5 0x3000] 0x2800 [.x 1 0x1004] ∧
  gives 0x00628863 [.x 5 0x7, .x 6 0x8] 0x1004 [] ∧
  gives 0xFE629CE3 [.x 5 0x7, .x 6 0x7] 0x1004 [] ∧
  gives 0x7E62CFE3 [.x 5 0x0, .x 6 0xFFFFFFFFFFFFFFFF] 0x1004 [] ∧
  gives 0x8062D063 [.x 5 0x8000000000000000, .x 6 0x8000000000000000] 0x0 [] ∧
  gives 0x0062E463 [.x 5 0xFFFFFFFFFFFFFFFF, .x 6 0x0] 0x1004 [] ∧
  gives 0x0062F463 [.x 5 0xFFFFFFFFFFFFFFFF, .x 6 0x0] 0x1008 [] := by
  decide +kernel

theorem test_step_load_store :
  gives 0x00030283 [.x 6 0x100, .mem 8 0x100 0x8877665544332211] 0x1004 [.x 5 0x11] ∧
  gives 0x00131283 [.x 6 0x100, .mem 8 0x100 0x8877665544332211] 0x1004 [.x 5 0x3322] ∧
  gives 0xFFC32283 [.x 6 0x104, .mem 8 0x100 0x8877665544332211] 0x1004 [.x 5 0x44332211] ∧
  gives 0x00333283 [.x 6 0x100, .mem 8 0x100 0x8877665544332211, .mem 8 0x108 0xFFEEDDCCBBAA0099] 0x1004 [.x 5 0xAA00998877665544] ∧
  gives 0x00734283 [.x 6 0x100, .mem 8 0x100 0x8877665544332211] 0x1004 [.x 5 0x88] ∧
  gives 0x00635283 [.x 6 0x100, .mem 8 0x100 0x8877665544332211] 0x1004 [.x 5 0x8877] ∧
  gives 0x00436283 [.x 6 0x100, .mem 8 0x100 0x8877665544332211] 0x1004 [.x 5 0x88776655] ∧
  gives 0x00730023 [.x 6 0x100, .x 7 0x1234, .mem 8 0x100 0x8877665544332211] 0x1004 [.mem 8 0x100 0x8877665544332234] ∧
  gives 0x007311A3 [.x 6 0x100, .x 7 0xABCD1234, .mem 8 0x100 0x8877665544332211] 0x1004 [.mem 8 0x100 0x8877661234332211] ∧
  gives 0x00732223 [.x 6 0x100, .x 7 0xFFFFFFFFDEADBEEF, .mem 8 0x100 0x8877665544332211] 0x1004 [.mem 8 0x100 0xDEADBEEF44332211] ∧
  gives 0xFE733C23 [.x 6 0x108, .x 7 0x102030405060708, .mem 8 0x100 0x8877665544332211] 0x1004 [.mem 8 0x100 0x102030405060708, .mem 1 0x100 0x8, .mem 1 0x107 0x1] := by
  decide +kernel

theorem test_step_immediate :
  gives 0x80030293 [.x 6 0x8000000000000000] 0x1004 [.x 5 0x7FFFFFFFFFFFF800] ∧
  gives 0xFFF32293 [.x 6 0xFFFFFFFFFFFFFFFF] 0x1004 [.x 5 0x0] ∧
  gives 0xFFF33293 [.x 6 0xFFFFFFFFFFFFFFFF] 0x1004 [.x 5 0x0] ∧
  gives 0xFFF34293 [.x 6 0xFF00FF00FF00FF] 0x1004 [.x 5 0xFF00FF00FF00FF00] ∧
  gives 0x80036293 [.x 6 0x7FF] 0x1004 [.x 5 0xFFFFFFFFFFFFFFFF] ∧
  gives 0xFF037293 [.x 6 0x123456789ABCDEFF] 0x1004 [.x 5 0x123456789ABCDEF0] ∧
  gives 0x00031293 [.x 6 0x8000000000000001] 0x1004 [.x 5 0x8000000000000001] ∧
  gives 0x02035293 [.x 6 0x123456789ABCDEF0] 0x1004 [.x 5 0x12345678] ∧
  gives 0x40435293 [.x 6 0xF000000000000010] 0x1004 [.x 5 0xFF00000000000001] ∧
  gives 0x0003029B [.x 6 0x1234567880000000] 0x1004 [.x 5 0xFFFFFFFF80000000] ∧
  gives 0x01F3129B [.x 6 0xFFFFFFFF00000001] 0x1004 [.x 5 0xFFFFFFFF80000000] ∧
  gives 0x01F3529B [.x 6 0xFFFFFFFF80000000] 0x1004 [.x 5 0x1] ∧
  gives 0x41F3529B [.x 6 0x80000000] 0x1004 [.x 5 0xFFFFFFFFFFFFFFFF] := by
  decide +kernel

theorem test_step_register :
  gives 0x007302B3 [.x 6 0x7FFFFFFFFFFFFFFF, .x 7 0x1] 0x1004 [.x 5 0x8000000000000000] ∧
  gives 0x407302B3 [.x 6 0x8000000000000000, .x 7 0x1] 0x1004 [.x 5 0x7FFFFFFFFFFFFFFF] ∧
  gives 0x007312B3 [.x 6 0x1, .x 7 0xFFFFFFFFFFFFFFFF] 0x1004 [.x 5 0x8000000000000000] ∧
  gives 0x007322B3 [.x 6 0x8000000000000000, .x 7 0x7FFFFFFFFFFFFFFF] 0x1004 [.x 5 0x1] ∧
  gives 0x007332B3 [.x 6 0x8000000000000000, .x 7 0x7FFFFFFFFFFFFFFF] 0x1004 [.x 5 0x0] ∧
  gives 0x007342B3 [.x 6 0xFF00FF00FF00FF00, .x 7 0xFF00FF00FF00FF0] 0x1004 [.x 5 0xF0F0F0F0F0F0F0F0] ∧
  gives 0x007352B3 [.x 6 0x8000000000000000, .x 7 0x7F] 0x1004 [.x 5 0x1] ∧
  gives 0x407352B3 [.x 6 0x8000000000000000, .x 7 0x7F] 0x1004 [.x 5 0xFFFFFFFFFFFFFFFF] ∧
  gives 0x007362B3 [.x 6 0xF0, .x 7 0xF] 0x1004 [.x 5 0xFF] ∧
  gives 0x007372B3 [.x 6 0xFF, .x 7 0xF0F] 0x1004 [.x 5 0xF] ∧
  gives 0x007302BB [.x 6 0xFFFFFFFF, .x 7 0x1] 0x1004 [.x 5 0x0] ∧
  gives 0x407302BB [.x 6 0x80000000, .x 7 0x1] 0x1004 [.x 5 0x7FFFFFFF] ∧
  gives 0x007312BB [.x 6 0xFFFFFFFF00000001, .x 7 0x20] 0x1004 [.x 5 0x1] ∧
  gives 0x007352BB [.x 6 0xFFFFFFFF80000000, .x 7 0x3F] 0x1004 [.x 5 0x1] ∧
  gives 0x407352BB [.x 6 0x80000000, .x 7 0x24] 0x1004 [.x 5 0xFFFFFFFFF8000000] := by
  decide +kernel

theorem test_step_mul_div :
  gives 0x027302B3 [.x 6 0xFFFFFFFFFFFFFFFF, .x 7 0xFFFFFFFFFFFFFFFF] 0x1004 [.x 5 0x1] ∧
  gives 0x027312B3 [.x 6 0x8000000000000000, .x 7 0x7FFFFFFFFFFFFFFF] 0x1004 [.x 5 0xC000000000000000] ∧
  gives 0x027322B3 [.x 6 0x7FFFFFFFFFFFFFFF, .x 7 0xFFFFFFFFFFFFFFFF] 0x1004 [.x 5 0x7FFFFFFFFFFFFFFE] ∧
  gives 0x027332B3 [.x 6 0xFFFFFFFFFFFFFFFF, .x 7 0xFFFFFFFFFFFFFFFF] 0x1004 [.x 5 0xFFFFFFFFFFFFFFFE] ∧
  gives 0x027342B3 [.x 6 0x8000000000000000, .x 7 0xFFFFFFFFFFFFFFFF] 0x1004 [.x 5 0x8000000000000000] ∧
  gives 0x027352B3 [.x 6 0xFFFFFFFFFFFFFFFF, .x 7 0x2] 0x1004 [.x 5 0x7FFFFFFFFFFFFFFF] ∧
  gives 0x027362B3 [.x 6 0x8000000000000000, .x 7 0xFFFFFFFFFFFFFFFF] 0x1004 [.x 5 0x0] ∧
  gives 0x027372B3 [.x 6 0xFFFFFFFFFFFFFFFF, .x 7 0xA] 0x1004 [.x 5 0x5] ∧
  gives 0x027302BB [.x 6 0xAAAAAAAA00000003, .x 7 0xBBBBBBBB00000005] 0x1004 [.x 5 0xF] ∧
  gives 0x027342BB [.x 6 0x80000000, .x 7 0xFFFFFFFF] 0x1004 [.x 5 0xFFFFFFFF80000000] ∧
  gives 0x027352BB [.x 6 0xFFFFFFFF, .x 7 0x1] 0x1004 [.x 5 0xFFFFFFFFFFFFFFFF] ∧
  gives 0x027362BB [.x 6 0x80000000, .x 7 0xFFFFFFFF] 0x1004 [.x 5 0x0] ∧
  gives 0x027372BB [.x 6 0xFFFFFFFF, .x 7 0x10] 0x1004 [.x 5 0xF] := by
  decide +kernel

theorem test_step_csr_fence :
  gives 0x0000000F [] 0x1004 [] ∧
  gives 0x0000100F [] 0x1004 [] ∧
  gives 0x340312F3 [.x 6 0xFFFF, .x 5 0x99, .csr 0x340 0xF0F0F0F012345678] 0x1004 [.x 5 0xF0F0F0F012345678, .csr 0x340 0xFFFF] ∧
  gives 0x340322F3 [.x 6 0xF0F, .csr 0x340 0xF0F0F0F012345678] 0x1004 [.x 5 0xF0F0F0F012345678, .csr 0x340 0xF0F0F0F012345F7F] ∧
  gives 0x340332F3 [.x 6 0xFFFFFFFF, .csr 0x340 0xF0F0F0F012345678] 0x1004 [.x 5 0xF0F0F0F012345678, .csr 0x340 0xF0F0F0F000000000] ∧
  gives 0x340052F3 [.csr 0x340 0xF0F0F0F012345678] 0x1004 [.x 5 0xF0F0F0F012345678, .csr 0x340 0x0] ∧
  gives 0x340062F3 [.csr 0x340 0xF0F0F0F012345678] 0x1004 [.x 5 0xF0F0F0F012345678, .csr 0x340 0xF0F0F0F012345678] ∧
  gives 0x340FF2F3 [.csr 0x340 0xF0F0F0F012345678] 0x1004 [.x 5 0xF0F0F0F012345678, .csr 0x340 0xF0F0F0F012345660] := by
  decide +kernel

theorem test_step_atomic :
  gives 0x1003A2AF [.x 7 0x100, .mem 8 0x100 0xAAAAAAAA80000005] 0x1004 [.x 5 0xFFFFFFFF80000005] ∧
  gives 0x1863A2AF [.x 7 0x100, .x 6 0x1122334455667788, .x 5 0x9, .mem 8 0x100 0xAAAAAAAA80000005] 0x1004 [.x 5 0x0, .mem 8 0x100 0xAAAAAAAA55667788] ∧
  gives 0x0863A2AF [.x 7 0x100, .x 6 0x100000003, .mem 8 0x100 0xAAAAAAAA80000005] 0x1004 [.x 5 0xFFFFFFFF80000005, .mem 8 0x100 0xAAAAAAAA00000003] ∧
  gives 0x0063A2AF [.x 7 0x100, .x 6 0x100000003, .mem 8 0x100 0xAAAAAAAA80000005] 0x1004 [.x 5 0xFFFFFFFF80000005, .mem 8 0x100 0xAAAAAAAA80000008] ∧
  gives 0x2063A2AF [.x 7 0x100, .x 6 0x100000003, .mem 8 0x100 0xAAAAAAAA80000005] 0x1004 [.x 5 0xFFFFFFFF80000005, .mem 8 0x100 0xAAAAAAAA80000006] ∧
  gives 0x6063A2AF [.x 7 0x100, .x 6 0x100000003, .mem 8 0x100 0xAAAAAAAA80000005] 0x1004 [.x 5 0xFFFFFFFF80000005, .mem 8 0x100 0xAAAAAAAA00000001] ∧
  gives 0x4063A2AF [.x 7 0x100, .x 6 0x100000003, .mem 8 0x100 0xAAAAAAAA80000005] 0x1004 [.x 5 0xFFFFFFFF80000005, .mem 8 0x100 0xAAAAAAAA80000007] ∧
  gives 0x8063A2AF [.x 7 0x100, .x 6 0x100000003, .mem 8 0x100 0xAAAAAAAA80000005] 0x1004 [.x 5 0xFFFFFFFF80000005, .mem 8 0x100 0xAAAAAAAA80000005] ∧
  gives 0xA063A2AF [.x 7 0x100, .x 6 0x100000003, .mem 8 0x100 0xAAAAAAAA80000005] 0x1004 [.x 5 0xFFFFFFFF80000005, .mem 8 0x100 0xAAAAAAAA00000003] ∧
  gives 0xC063A2AF [.x 7 0x100, .x 6 0x100000003, .mem 8 0x100 0xAAAAAAAA80000005] 0x1004 [.x 5 0xFFFFFFFF80000005, .mem 8 0x100 0xAAAAAAAA00000003] ∧
  gives 0xE063A2AF [.x 7 0x100, .x 6 0x100000003, .mem 8 0x100 0xAAAAAAAA80000005] 0x1004 [.x 5 0xFFFFFFFF80000005, .mem 8 0x100 0xAAAAAAAA80000005] ∧
  gives 0x1003B2AF [.x 7 0x100, .mem 8 0x100 0xAAAAAAAA80000005] 0x1004 [.x 5 0xAAAAAAAA80000005] ∧
  gives 0x1863B2AF [.x 7 0x100, .x 6 0x1122334455667788, .x 5 0x9, .mem 8 0x100 0xAAAAAAAA80000005] 0x1004 [.x 5 0x0, .mem 8 0x100 0x1122334455667788] ∧
  gives 0x0863B2AF [.x 7 0x100, .x 6 0x3, .mem 8 0x100 0x8000000000000005] 0x1004 [.x 5 0x8000000000000005, .mem 8 0x100 0x3] ∧
  gives 0x0063B2AF [.x 7 0x101, .x 6 0x1, .mem 8 0x100 0xFF00, .mem 8 0x108 0x0] 0x1004 [.x 5 0xFF, .mem 8 0x100 0x10000, .mem 8 0x108 0x0] ∧
  gives 0x2063B2AF [.x 7 0x100, .x 6 0x3, .mem 8 0x100 0x8000000000000005] 0x1004 [.x 5 0x8000000000000005, .mem 8 0x100 0x8000000000000006] ∧
  gives 0x6063B2AF [.x 7 0x100, .x 6 0x3, .mem 8 0x100 0x8000000000000005] 0x1004 [.x 5 0x8000000000000005, .mem 8 0x100 0x1] ∧
  gives 0x4063B2AF [.x 7 0x100, .x 6 0x3, .mem 8 0x100 0x8000000000000005] 0x1004 [.x 5 0x8000000000000005, .mem 8 0x100 0x8000000000000007] ∧
  gives 0x8063B2AF [.x 7 0x100, .x 6 0x3, .mem 8 0x100 0x8000000000000005] 0x1004 [.x 5 0x8000000000000005, .mem 8 0x100 0x8000000000000005] ∧
  gives 0xA063B2AF [.x 7 0x100, .x 6 0x3, .mem 8 0x100 0x8000000000000005] 0x1004 [.x 5 0x8000000000000005, .mem 8 0x100 0x3] ∧
  gives 0xC063B2AF [.x 7 0x100, .x 6 0x3, .mem 8 0x100 0x8000000000000005] 0x1004 [.x 5 0x8000000000000005, .mem 8 0x100 0x3] ∧
  gives 0xE063B2AF [.x 7 0x100, .x 6 0x3, .mem 8 0x100 0x8000000000000005] 0x1004 [.x 5 0x8000000000000005, .mem 8 0x100 0x8000000000000005] := by
  decide +kernel

theorem test_step_float :
  gives 0x00432087 [.x 6 0x100, .f 1 0x0, .mem 8 0x100 0x8877665544332211] 0x1004 [.f 1 0xFFFFFFFF88776655] ∧
  gives 0x00232027 [.x 6 0x100, .f 2 0x123456783F800000, .mem 8 0x100 0x8877665544332211] 0x1004 [.mem 8 0x100 0x887766553F800000] ∧
  gives 0x18208243 [.f 1 0xFFFFFFFF7F800000, .f 2 0xFFFFFFFF00000000, .f 3 0xFFFFFFFF7FC00000] 0x1004 [.f 4 0xFFFFFFFF7FC00000] ∧
  gives 0x18208247 [.f 1 0xFFFFFFFF40000000, .f 2 0xFFFFFFFF40400000, .f 3 0xFFFFFFFF3F800000] 0x1004 [.f 4 0xFFFFFFFF40A00000] ∧
  gives 0x1820824B [.f 1 0xFFFFFFFF40000000, .f 2 0xFFFFFFFF40400000, .f 3 0xFFFFFFFF3F800000] 0x1004 [.f 4 0xFFFFFFFFC0A00000] ∧
  gives 0x1820824F [.f 1 0xFFFFFFFF40000000, .f 2 0xFFFFFFFF40400000, .f 3 0xFFFFFFFF3F800000] 0x1004 [.f 4 0xFFFFFFFFC0E00000] ∧
  gives 0x002081D3 [.f 1 0xFFFFFFFF3F800000, .f 2 0xFFFFFFFFBF800000] 0x1004 [.f 3 0xFFFFFFFF00000000] ∧
  gives 0x082081D3 [.f 1 0xFFFFFFFF7F800000, .f 2 0xFFFFFFFF7F800000] 0x1004 [.f 3 0xFFFFFFFF7FC00000] ∧
  gives 0x102081D3 [.f 1 0xFFFFFFFF00800000, .f 2 0xFFFFFFFF3F000000] 0x1004 [.f 3 0xFFFFFFFF00400000] ∧
  gives 0x182081D3 [.f 1 0xFFFFFFFFBF800000, .f 2 0xFFFFFFFF80000000] 0x1004 [.f 3 0xFFFFFFFF7F800000] ∧
  gives 0x580081D3 [.f 1 0xFFFFFFFF80000000] 0x1004 [.f 3 0xFFFFFFFF80000000] ∧
  gives 0x202081D3 [.f 1 0xFFFFFFFF3F800000, .f 2 0xFFFFFFFF80000000] 0x1004 [.f 3 0xFFFFFFFFBF800000] ∧
  gives 0x201091D3 [.f 1 0xFFFFFFFF3F800000] 0x1004 [.f 3 0xFFFFFFFFBF800000] ∧
  gives 0x2020A1D3 [.f 1 0xFFFFFFFFC0000000, .f 2 0xFFFFFFFF80000000] 0x1004 [.f 3 0xFFFFFFFF40000000] ∧
  gives 0x282081D3 [.f 1 0xFFFFFFFFFF800000, .f 2 0xFFFFFFFF3F800000] 0x1004 [.f 3 0xFFFFFFFFFF800000] ∧
  gives 0x282091D3 [.f 1 0xFFFFFFFF7F800001, .f 2 0xFFFFFFFF7FC00001] 0x1004 [.f 3 0xFFFFFFFF7FC00000] ∧
  gives 0xC000F2D3 [.f 1 0xFFFFFFFFBF800000] 0x1004 [.x 5 0xFFFFFFFFFFFFFFFF] ∧
  gives 0xC01092D3 [.f 1 0xFFFFFFFFBF000000] 0x1004 [.x 5 0x0] ∧
  gives 0xC02092D3 [.f 1 0xFFFFFFFFC2F6E979] 0x1004 [.x 5 0xFFFFFFFFFFFFFF85] ∧
  gives 0xC03092D3 [.f 1 0xFFFFFFFFFF800000] 0x1004 [.x 5 0x0] ∧
  gives 0xE00082D3 [.f 1 0xFFFFFFFF3F800000] 0x1004 [.x 5 0x3F800000] ∧
  gives 0xA020A2D3 [.f 1 0xFFFFFFFF7FC00000, .f 2 0xFFFFFFFF7FC00000] 0x1004 [.x 5 0x0] ∧
  gives 0xA02092D3 [.f 1 0xFFFFFFFF3F800000, .f 2 0xFFFFFFFF7F800001] 0x1004 [.x 5 0x0] ∧
  gives 0xA02082D3 [.f 1 0xFFFFFFFF40000000, .f 2 0xFFFFFFFF3F800000] 0x1004 [.x 5 0x0] ∧
  gives 0xE00092D3 [.f 1 0xFFFFFFFF7FC00000] 0x1004 [.x 5 0x200] ∧
  gives 0xD00280D3 [.x 5 0x1234567801000001] 0x1004 [.f 1 0xFFFFFFFF4B800000] ∧
  gives 0xD01280D3 [.x 5 0xFFFFFFFFFFFFFFFF] 0x1004 [.f 1 0xFFFFFFFF4F800000] ∧
  gives 0xD02290D3 [.x 5 0x7FFFFFFFFFFFFFFF] 0x1004 [.f 1 0xFFFFFFFF5EFFFFFF] ∧
  gives 0xD032A0D3 [.x 5 0xFFFFFFFFFFFFFFFF] 0x1004 [.f 1 0xFFFFFFFF5F7FFFFF] ∧
  gives 0xF00280D3 [.x 5 0x7FC00001] 0x1004 [.f 1 0xFFFFFFFF7FC00001] := by
  decide +kernel

theorem test_decode_signs_and_scattered_bits :
  decode 0x00208863#32 = .ok (.beq 1 2 8) ∧ decode 0xFE629EE3#32 = .ok (.bne 5 6 (-2)) ∧
  decode 0x800FF0EF#32 = .ok (.jal 1 (-4096)) ∧ decode 0x800000EF#32 = .ok (.jal 1 (-1048576)) ∧
  decode 0x002000EF#32 = .ok (.jal 1 2) ∧ decode 0x003280E7#32 = .ok (.jalr 1 5 3) ∧
  decode 0xFFC00367#32 = .ok (.jalr 6 0 (-4)) ∧ decode 0x005331A3#32 = .ok (.sd 6 5 3) ∧
  decode 0x0663B2AF#32 = .ok (.amoaddD 5 7 6) ∧ decode 0x8330000F#32 = .ok .fence := by
  decide +kernel

theorem test_decode_rejects :
  decode 0x00000073#32 = .error (.unknownFunct 0x00000073#32) ∧ decode 0x00000000#32 = .error (.unknownOpcode 0#32) ∧
  decode 0x1013A2AF#32 = .error (.unknownFunct 0x1013A2AF#32) ∧ decodeBytes [0x13, 0x00, 0x00] = .error .tooShort ∧
  decodeTableWord 32 0x00108093 = some (.addi 1 1 1) ∧ decodeTableWord 32 0x30200073 = none := by
  decide +kernel

theorem test_step_conditions :
  raises 0x00030283 [.x 6 0x2000, .x 5 0x9] (.memoryFault 0x2000 .byte) ∧
  raises 0x00733023 [.x 6 0x1FF9, .x 7 0x1] (.memoryFault 0x1FF9 .double) ∧
  raises 0x00032087 [.x 6 0x1FFD, .f 1 0x55] (.memoryFault 0x1FFD .word) ∧
  raises 0x0063B2AF [.x 7 0x1FFC, .x 6 0x1, .x 5 0x9] (.memoryFault 0x1FFC .double) ∧
  raises 0xD002D0D3 [.x 5 0x1, .f 1 0x77] (.unsupportedRoundingMode 0xD002D0D3) ∧
  raises 0xD032E0D3 [.x 5 0x1] (.unsupportedRoundingMode 0xD032E0D3) ∧
  raises 0x00000073 [] (.decodeError 0x00000073) ∧ raises 0xFFFFFFFF [] (.decodeError 0xFFFFFFFF) := by
  decide +kernel

/-! ### Well-formedness: an ill-formed term for each check, refused, and its legal neighbour (R90 to R95) -/

theorem test_wf_imm12 : (Instr.addi 1 1 2048).wf = false ∧ (Instr.addi 1 1 2047).wf = true ∧
    (Instr.lw 1 1 (-2049)).wf = false ∧ (Instr.lw 1 1 (-2048)).wf = true ∧ (Instr.jalr 1 1 2048).wf = false ∧
    (Instr.sd 1 1 2048).wf = false ∧ (Instr.fsw 1 1 (-2049)).wf = false ∧ (Instr.flw 1 1 2048).wf = false := by decide
theorem test_wf_imm20 : (Instr.lui 1 524288).wf = false ∧ (Instr.lui 1 524287).wf = true ∧
    (Instr.auipc 1 (-524289)).wf = false ∧ (Instr.auipc 1 (-524288)).wf = true := by decide
theorem test_wf_branch : (Instr.beq 1 2 2048).wf = false ∧ (Instr.beq 1 2 2047).wf = true ∧
    (Instr.bgeu 1 2 (-2049)).wf = false := by decide
theorem test_wf_jal_range : (Instr.jal 1 1048576).wf = false ∧ (Instr.jal 1 1048574).wf = true ∧
    (Instr.jal 1 (-1048578)).wf = false ∧ (Instr.jal 1 (-1048576)).wf = true := by decide
theorem test_wf_jal_odd : (Instr.jal 1 3).wf = false ∧ (Instr.jal 1 2).wf = true := by decide
theorem test_wf_shamt6 : (Instr.slli 1 2 64).wf = false ∧ (Instr.srai 1 2 63).wf = true := by decide
theorem test_wf_shamt5 : (Instr.slliw 1 2 32).wf = false ∧ (Instr.sraiw 1 2 31).wf = true := by decide

/-! ### Reset (R41) and the chosen parameters (log 1 to 4) -/

theorem test_reset_table : State.reset.pc = 0 ∧ State.reset.priv = .machine ∧ State.reset.fcsr = 0 ∧
    State.reset.halted = none ∧ State.reset.readX 2 = 0 ∧ State.reset.mem = ⟨0x100000, []⟩ := by decide

/-! ### Witnesses: the hypotheses of every statement that has some are met -/

/-- A start state with a word under the fetch. -/
def loaded (w : Nat) (ps : List Piece) : State := (start ps).withFetchWord 32 w

/-- A start state whose pc is `pc`. -/
def startAt (pc : Word) : State := { start [] with pc := pc }

/-- The answer is a next state. -/
def completes : Result → Bool
  | .next _ => true
  | _ => false

/-- The answer is this condition. -/
def stops (c : Fault) : Result → Bool
  | .fault d => d == c
  | _ => false

theorem next_of_completes {r : Result} (h : completes r = true) : ∃ t, r = .next t := by
  cases r <;> first | exact ⟨_, rfl⟩ | cases h

theorem fault_of_stops {r : Result} {c : Fault} (h : stops c r = true) : r = .fault c := by
  cases r with
  | fault d => rw [eq_of_beq h]
  | _ => cases h

theorem test_witness_BootLoadsTheImage :
    let p : ResetParams := ⟨⟨4, []⟩, 0, Vector.replicate 32 0⟩
    p.mem.wf ∧ [1, 2, 3, 4].length ≤ p.mem.size ∧ (boot p [1, 2, 3, 4]).mem.byte 3 = 4 ∧
      (boot p [1, 2, 3]).mem.byte 3 = 0 := by decide

/-- At an ordinary pc, and at the last pc a word can be fetched from; one instruction that completes, one that stops. -/
theorem test_witness_StepRunsTheDecodedInstruction :
    (let s := loaded 0x00108093 []
     s.halted = none ∧ Inside s s.pc .word ∧ decode (BitVec.ofNat 32 (windowValue s.mem s.pc.toNat 4)) = .ok (.addi 1 1 1) ∧
       ∃ t, exec (.addi 1 1 1) s = .next t) ∧
    (let s := (startAt 0x1FFC).withFetchWord 32 0x00003003
     s.halted = none ∧ Inside s s.pc .word ∧ decode (BitVec.ofNat 32 (windowValue s.mem s.pc.toNat 4)) = .ok (.ld 0 0 0) ∧
       ∃ t, exec (.ld 0 0 0) s = .next t) ∧
    (let s := loaded 0xFFF00283 []
     s.halted = none ∧ Inside s s.pc .word ∧ decode (BitVec.ofNat 32 (windowValue s.mem s.pc.toNat 4)) = .ok (.lb 5 0 (-1)) ∧
       exec (.lb 5 0 (-1)) s = .fault (.memoryFault (-1) .byte)) := by
  refine ⟨⟨rfl, ?_, by decide +kernel, next_of_completes (by decide +kernel)⟩,
    ⟨rfl, ?_, by decide +kernel, next_of_completes (by decide +kernel)⟩,
    ⟨rfl, ?_, by decide +kernel, fault_of_stops (by decide +kernel)⟩⟩ <;> (unfold Inside; decide +kernel)

/-- pc 0x1FFC is the last that fetches, 0x1FFD the first that does not. -/
theorem test_witness_FetchAndDecodeStops :
    (let s := startAt 0x1FFD; s.halted = none ∧ ¬ Inside s s.pc .word) ∧
    (let s := startAt 0xFFFFFFFFFFFFFFFD; s.halted = none ∧ 2 ^ 64 < s.pc.toNat + 4) ∧
    (let s := startAt 0x1FFC
     s.halted = none ∧ Inside s s.pc .word ∧ Undefined (BitVec.ofNat 32 (windowValue s.mem s.pc.toNat 4))) := by
  refine ⟨⟨rfl, ?_⟩, ⟨rfl, by decide +kernel⟩, ⟨rfl, ?_, .unknownOpcode 0, by decide +kernel⟩⟩ <;>
    (unfold Inside; decide +kernel)

/-- A running state whose cycle completes, with its data access at the last legal address, and one whose cycle does not. -/
theorem test_witness_CycleCompletesExactlyWhen :
    (let s := loaded 0x00033283 [.x 6 0x1FF8]
     s.halted = none ∧ (∃ u, step s = .next u) ∧ badRounding (.ld 5 6 0) = false ∧
       dataAccess (.ld 5 6 0) s = some (0x1FF8, .double) ∧ Inside s 0x1FF8 .double) ∧
    (let s := loaded 0x00033283 [.x 6 0x1FF9]; s.halted = none ∧ step s = .fault (.memoryFault 0x1FF9 .double)) := by
  refine ⟨⟨rfl, next_of_completes (by decide +kernel), rfl, by decide +kernel, ?_⟩, rfl, fault_of_stops (by decide +kernel)⟩
  unfold Inside; decide +kernel

theorem test_witness_ExecRaisesOnlyItsCondition :
    (let s := start [.x 6 0x1FF9]
     dataAccess (.ld 5 6 0) s = some (0x1FF9, .double) ∧ ¬ Inside s 0x1FF9 .double) ∧
    (dataAccess (.ld 5 0 (-7)) (start []) = some (0xFFFFFFFFFFFFFFF9, .double) ∧
      2 ^ 64 < (0xFFFFFFFFFFFFFFF9#64).toNat + Width.double.bytes ∧
      ¬ 2 ^ 64 < (0xFFFFFFFFFFFFFFF8#64).toNat + Width.double.bytes) ∧
    (dataAccess (.lb 5 0 (-2048)) (start []) = some (0xFFFFFFFFFFFFF800, .byte) ∧
      0xFFFFFFFFFFFFF800 ≤ (0xFFFFFFFFFFFFF800#64).toNat ∧ ¬ 0xFFFFFFFFFFFFF800 ≤ (0xFFFFFFFFFFFFF7FF#64).toNat) ∧
    badRounding (.fcvtSW 1 5 .dyn) = true ∧ badRounding (.fcvtSLu 1 5 .reserved5) = true ∧
    (badRounding (.addi 1 1 1) = false ∧ dataAccess (.addi 1 1 1) (start []) = none) := by
  refine ⟨⟨by decide +kernel, ?_⟩, ⟨by decide +kernel, by decide, by decide⟩,
    ⟨by decide +kernel, by decide, by decide⟩, rfl, rfl, rfl, rfl⟩
  unfold Inside; decide +kernel

theorem test_witness_FatalConditionIsPreciseAndFinal :
    ((start []).halted = none ∧ step (start []) = .fault (.decodeError 0)) ∧
    (halt (.decodeError 0) (start [])).halted = some (.decodeError 0) :=
  ⟨⟨rfl, fault_of_stops (by decide +kernel)⟩, rfl⟩

theorem inv_loaded (w : Nat) : (loaded w []).Inv where
  mem := placeWord_wf _ _ (by decide)
  csr := (show sparseWf 0 Config.csrEntries [] by decide)
  x0 := rfl
  pc := (show (0x1000#64).getLsbD 0 = false by decide)
  fcsr := (show ((0 : Word32).extractLsb' 8 24 == 0) = true by decide)
  priv := rfl

/-- A jump, so that the pc clause of the invariant is at stake. -/
theorem test_witness_StepKeepsTheInvariant :
    (loaded 0x002000EF []).Inv ∧ ∃ t, step (loaded 0x002000EF []) = .next t :=
  ⟨inv_loaded _, next_of_completes (by decide +kernel)⟩

theorem test_witness_StepNeverChangesFcsrPrivMemSize : ∃ t, step (loaded 0x340312F3 [.x 6 1]) = .next t :=
  next_of_completes (by decide +kernel)

theorem test_witness_PrivAndFcsrAreNeverObserved :
    (∃ t, exec (.fcvtSW 1 5 (.static .rup)) (start []) = .next t) ∧
    exec (.lb 5 0 (-1)) (start []) = .fault (.memoryFault (-1) .byte) :=
  ⟨next_of_completes (by decide +kernel), fault_of_stops (by decide +kernel)⟩

/-- A file that differs from the state's in every upper word. -/
theorem test_witness_UpperWordsAreNeverObserved :
    (∀ r : Reg, ((Vector.replicate 32 0xABCD000000000000#64 : Vector Word 32)[r.val]).extractLsb' 0 32 = (start []).readS r) ∧
    (∃ t, exec (.faddS 3 1 2) (start []) = .next t) ∧
    exec (.fsw 0 1 (-1)) (start []) = .fault (.memoryFault (-1) .word) :=
  ⟨by decide +kernel, next_of_completes (by decide +kernel), fault_of_stops (by decide +kernel)⟩

/-- A step that writes a container: unboxed before, boxed after. -/
theorem test_witness_FloatWritesAreBoxed :
    ∃ t, exec (.fmvWX 1 5) (start [.f 1 0x55]) = .next t ∧ t.readF 1 = 0xFFFFFFFF00000000 ∧
      (start [.f 1 0x55]).readF 1 = 0x55 :=
  ⟨_, rfl, by decide +kernel, by decide +kernel⟩

/-- The last doubleword of the buffer. -/
theorem test_witness_MemoryIsLittleEndian : (0x1FF8#64).toNat + Width.double.bytes ≤ (start []).mem.size ∧
    ¬ (0x1FF9#64).toNat + Width.double.bytes ≤ (start []).mem.size := by decide

/-- The first and the last halfword of a doubleword. -/
theorem test_witness_MixedWidthReads :
    (∃ m', (start []).mem.write 0x100 .double 0x1122334455667788 = some m') ∧
    (0x100#64).toNat ≤ (0x106#64).toNat ∧ (0x106#64).toNat + Width.half.bytes ≤ (0x100#64).toNat + Width.double.bytes ∧
    (0x100#64).toNat + Width.half.bytes ≤ (0x100#64).toNat + Width.double.bytes :=
  ⟨⟨_, rfl⟩, by decide, by decide, by decide⟩

theorem test_witness_MemoryStaysCanonical :
    (⟨8, [(3, 7)]⟩ : Memory).wf ∧ (∃ m', (⟨8, [(3, 7)]⟩ : Memory).write 0 .double 1 = some m') ∧
    ¬ (⟨8, [(3, 0)]⟩ : Memory).wf ∧ ¬ (⟨8, [(4, 1), (3, 1)]⟩ : Memory).wf ∧ ¬ (⟨8, [(8, 1)]⟩ : Memory).wf :=
  ⟨by decide, ⟨_, rfl⟩, by decide, by decide, by decide⟩

theorem test_witness_StoredWordIsFetchedNext :
    let s := start [.x 6 0x1004, .x 5 0x13]
    s.readX 6 + 0 = s.pc + 4 ∧ ∃ t, exec (.sw 6 5 0) s = .next t :=
  ⟨by decide +kernel, next_of_completes (by decide +kernel)⟩

theorem test_witness_DecodeInvertsEncode :
    (Instr.jal 1 (-1048576)).wf = true ∧ encode (.jal 1 (-1048576)) = 0x800000EF#32 ∧
    (Instr.faddS 3 1 2).wf = true ∧ ignoredBits (.faddS 3 1 2) = 0x7000#32 ∧
    decode 0x0020F1D3#32 = .ok (.faddS 3 1 2) := by decide +kernel

/-- Words on both sides: the DecodeError words of spec/95_test_vectors.md, one or more for each group and funct2 other
than 00 for each fused opcode; and filled cells beside them. -/
theorem test_witness_UndefinedWordsAreRejected :
    [0x00000000#32, 0xFFFFFFFF#32, 0x00000001#32, 0x00008082#32, 0x0000000B#32, 0x0000001F#32, 0x00000057#32,
      0x04031293#32, 0x44035293#32, 0x0203129B#32, 0x0003229B#32, 0x407312B3#32, 0x067302B3#32, 0x007322BB#32,
      0x027312BB#32, 0x000290E7#32, 0x0062A463#32, 0x0062B463#32, 0x00037283#32, 0x00734023#32, 0x00033087#32,
      0x00001007#32, 0x581081D3#32, 0x1A208243#32, 0x1A208247#32, 0x1C20824B#32, 0x1E20824F#32, 0x2020B1D3#32,
      0xC04092D3#32, 0xA020B2D3#32, 0xD042F0D3#32, 0xF00290D3#32, 0x022081D3#32, 0x401081D3#32, 0x1013A2AF#32,
      0x2863A2AF#32, 0x0063C2AF#32, 0x340342F3#32, 0x0000200F#32, 0x00000073#32, 0x00100073#32, 0x30200073#32,
      0x10500073#32, 0x12000073#32].all (fun w => !defined w) = true ∧
    [0x02035293#32, 0x41F3529B#32, 0x407352B3#32, 0x027362BB#32, 0x18208247#32, 0x1820824B#32, 0x1820824F#32,
      0xC03092D3#32, 0xE063B2AF#32, 0x1003A2AF#32, 0x340FF2F3#32, 0xFFFF9F8F#32].all defined = true := by decide +kernel

/-! The forms (`RForm`, `IForm`, …): for each instruction of a statement a word that has the opcode and the functions its
form names (the words of the decode tests). -/

theorem test_witness_forms_RegisterImmediateResults :
  (bits 0x00108093#32 0 7 = 0b0010011#7 ∧ bits 0x00108093#32 12 3 = 0b000#3) ∧
  (bits 0xFFF32293#32 0 7 = 0b0010011#7 ∧ bits 0xFFF32293#32 12 3 = 0b010#3) ∧
  (bits 0xFFF33293#32 0 7 = 0b0010011#7 ∧ bits 0xFFF33293#32 12 3 = 0b011#3) ∧
  (bits 0xFFF34293#32 0 7 = 0b0010011#7 ∧ bits 0xFFF34293#32 12 3 = 0b100#3) ∧
  (bits 0x80036293#32 0 7 = 0b0010011#7 ∧ bits 0x80036293#32 12 3 = 0b110#3) ∧
  (bits 0xFF037293#32 0 7 = 0b0010011#7 ∧ bits 0xFF037293#32 12 3 = 0b111#3) := by decide
theorem test_witness_forms_ShiftImmediateResults :
  (bits 0x03F31293#32 0 7 = 0b0010011#7 ∧ bits 0x03F31293#32 12 3 = 0b001#3 ∧ bits 0x03F31293#32 26 6 = 0b000000#6) ∧
  (bits 0x03F35293#32 0 7 = 0b0010011#7 ∧ bits 0x03F35293#32 12 3 = 0b101#3 ∧ bits 0x03F35293#32 26 6 = 0b000000#6) ∧
  (bits 0x43F35293#32 0 7 = 0b0010011#7 ∧ bits 0x43F35293#32 12 3 = 0b101#3 ∧ bits 0x43F35293#32 26 6 = 0b010000#6) := by decide
theorem test_witness_forms_RegisterRegisterResults :
  (bits 0x002081B3#32 0 7 = 0b0110011#7 ∧ bits 0x002081B3#32 12 3 = 0b000#3 ∧ bits 0x002081B3#32 25 7 = 0b0000000#7) ∧
  (bits 0x402081B3#32 0 7 = 0b0110011#7 ∧ bits 0x402081B3#32 12 3 = 0b000#3 ∧ bits 0x402081B3#32 25 7 = 0b0100000#7) ∧
  (bits 0x007322B3#32 0 7 = 0b0110011#7 ∧ bits 0x007322B3#32 12 3 = 0b010#3 ∧ bits 0x007322B3#32 25 7 = 0b0000000#7) ∧
  (bits 0x007332B3#32 0 7 = 0b0110011#7 ∧ bits 0x007332B3#32 12 3 = 0b011#3 ∧ bits 0x007332B3#32 25 7 = 0b0000000#7) ∧
  (bits 0x007342B3#32 0 7 = 0b0110011#7 ∧ bits 0x007342B3#32 12 3 = 0b100#3 ∧ bits 0x007342B3#32 25 7 = 0b0000000#7) ∧
  (bits 0x007362B3#32 0 7 = 0b0110011#7 ∧ bits 0x007362B3#32 12 3 = 0b110#3 ∧ bits 0x007362B3#32 25 7 = 0b0000000#7) ∧
  (bits 0x007372B3#32 0 7 = 0b0110011#7 ∧ bits 0x007372B3#32 12 3 = 0b111#3 ∧ bits 0x007372B3#32 25 7 = 0b0000000#7) := by decide
theorem test_witness_forms_ShiftRegisterResults :
  (bits 0x007312B3#32 0 7 = 0b0110011#7 ∧ bits 0x007312B3#32 12 3 = 0b001#3 ∧ bits 0x007312B3#32 25 7 = 0b0000000#7) ∧
  (bits 0x007352B3#32 0 7 = 0b0110011#7 ∧ bits 0x007352B3#32 12 3 = 0b101#3 ∧ bits 0x007352B3#32 25 7 = 0b0000000#7) ∧
  (bits 0x407352B3#32 0 7 = 0b0110011#7 ∧ bits 0x407352B3#32 12 3 = 0b101#3 ∧ bits 0x407352B3#32 25 7 = 0b0100000#7) := by decide
theorem test_witness_forms_WordArithmeticResults :
  (bits 0x0013029B#32 0 7 = 0b0011011#7 ∧ bits 0x0013029B#32 12 3 = 0b000#3) ∧
  (bits 0x002081BB#32 0 7 = 0b0111011#7 ∧ bits 0x002081BB#32 12 3 = 0b000#3 ∧ bits 0x002081BB#32 25 7 = 0b0000000#7) ∧
  (bits 0x407302BB#32 0 7 = 0b0111011#7 ∧ bits 0x407302BB#32 12 3 = 0b000#3 ∧ bits 0x407302BB#32 25 7 = 0b0100000#7) := by decide
theorem test_witness_forms_WordShiftImmediateResults :
  (bits 0x01F3129B#32 0 7 = 0b0011011#7 ∧ bits 0x01F3129B#32 12 3 = 0b001#3 ∧ bits 0x01F3129B#32 25 7 = 0b0000000#7) ∧
  (bits 0x0003529B#32 0 7 = 0b0011011#7 ∧ bits 0x0003529B#32 12 3 = 0b101#3 ∧ bits 0x0003529B#32 25 7 = 0b0000000#7) ∧
  (bits 0x41F3529B#32 0 7 = 0b0011011#7 ∧ bits 0x41F3529B#32 12 3 = 0b101#3 ∧ bits 0x41F3529B#32 25 7 = 0b0100000#7) := by decide
theorem test_witness_forms_WordShiftRegisterResults :
  (bits 0x007312BB#32 0 7 = 0b0111011#7 ∧ bits 0x007312BB#32 12 3 = 0b001#3 ∧ bits 0x007312BB#32 25 7 = 0b0000000#7) ∧
  (bits 0x007352BB#32 0 7 = 0b0111011#7 ∧ bits 0x007352BB#32 12 3 = 0b101#3 ∧ bits 0x007352BB#32 25 7 = 0b0000000#7) ∧
  (bits 0x407352BB#32 0 7 = 0b0111011#7 ∧ bits 0x407352BB#32 12 3 = 0b101#3 ∧ bits 0x407352BB#32 25 7 = 0b0100000#7) := by decide
theorem test_witness_forms_UpperImmediateResults :
  (bits 0x800002B7#32 0 7 = 0b0110111#7) ∧
  (bits 0x00000297#32 0 7 = 0b0010111#7) := by decide
theorem test_witness_forms_JumpAndLink :
  (bits 0x008000EF#32 0 7 = 0b1101111#7) := by decide
theorem test_witness_forms_JumpAndLinkRegister :
  (bits 0x000280E7#32 0 7 = 0b1100111#7 ∧ bits 0x000280E7#32 12 3 = 0b000#3) := by decide
theorem test_witness_forms_BranchesGoWhereTheyShould :
  (bits 0x00000463#32 0 7 = 0b1100011#7 ∧ bits 0x00000463#32 12 3 = 0b000#3) ∧
  (bits 0x00001863#32 0 7 = 0b1100011#7 ∧ bits 0x00001863#32 12 3 = 0b001#3) ∧
  (bits 0x7E62CFE3#32 0 7 = 0b1100011#7 ∧ bits 0x7E62CFE3#32 12 3 = 0b100#3) ∧
  (bits 0x8062D063#32 0 7 = 0b1100011#7 ∧ bits 0x8062D063#32 12 3 = 0b101#3) ∧
  (bits 0x0062E463#32 0 7 = 0b1100011#7 ∧ bits 0x0062E463#32 12 3 = 0b110#3) ∧
  (bits 0x0062F463#32 0 7 = 0b1100011#7 ∧ bits 0x0062F463#32 12 3 = 0b111#3) := by decide
theorem test_witness_forms_LoadsReadTheirWindow :
  (bits 0x00000383#32 0 7 = 0b0000011#7 ∧ bits 0x00000383#32 12 3 = 0b000#3) ∧
  (bits 0x00631283#32 0 7 = 0b0000011#7 ∧ bits 0x00631283#32 12 3 = 0b001#3) ∧
  (bits 0x00432283#32 0 7 = 0b0000011#7 ∧ bits 0x00432283#32 12 3 = 0b010#3) ∧
  (bits 0x00033283#32 0 7 = 0b0000011#7 ∧ bits 0x00033283#32 12 3 = 0b011#3) ∧
  (bits 0x00004383#32 0 7 = 0b0000011#7 ∧ bits 0x00004383#32 12 3 = 0b100#3) ∧
  (bits 0x00635283#32 0 7 = 0b0000011#7 ∧ bits 0x00635283#32 12 3 = 0b101#3) ∧
  (bits 0x00436283#32 0 7 = 0b0000011#7 ∧ bits 0x00436283#32 12 3 = 0b110#3) := by decide
theorem test_witness_forms_StoresWriteTheirWindow :
  (bits 0x00600023#32 0 7 = 0b0100011#7 ∧ bits 0x00600023#32 12 3 = 0b000#3) ∧
  (bits 0x007311A3#32 0 7 = 0b0100011#7 ∧ bits 0x007311A3#32 12 3 = 0b001#3) ∧
  (bits 0x00732223#32 0 7 = 0b0100011#7 ∧ bits 0x00732223#32 12 3 = 0b010#3) ∧
  (bits 0xFE733C23#32 0 7 = 0b0100011#7 ∧ bits 0xFE733C23#32 12 3 = 0b011#3) := by decide
theorem test_witness_forms_MultiplyResults :
  (bits 0x027302B3#32 0 7 = 0b0110011#7 ∧ bits 0x027302B3#32 12 3 = 0b000#3 ∧ bits 0x027302B3#32 25 7 = 0b0000001#7) ∧
  (bits 0x027312B3#32 0 7 = 0b0110011#7 ∧ bits 0x027312B3#32 12 3 = 0b001#3 ∧ bits 0x027312B3#32 25 7 = 0b0000001#7) ∧
  (bits 0x027322B3#32 0 7 = 0b0110011#7 ∧ bits 0x027322B3#32 12 3 = 0b010#3 ∧ bits 0x027322B3#32 25 7 = 0b0000001#7) ∧
  (bits 0x0220B1B3#32 0 7 = 0b0110011#7 ∧ bits 0x0220B1B3#32 12 3 = 0b011#3 ∧ bits 0x0220B1B3#32 25 7 = 0b0000001#7) ∧
  (bits 0x027302BB#32 0 7 = 0b0111011#7 ∧ bits 0x027302BB#32 12 3 = 0b000#3 ∧ bits 0x027302BB#32 25 7 = 0b0000001#7) := by decide
theorem test_witness_forms_DivideResults :
  (bits 0x027342B3#32 0 7 = 0b0110011#7 ∧ bits 0x027342B3#32 12 3 = 0b100#3 ∧ bits 0x027342B3#32 25 7 = 0b0000001#7) ∧
  (bits 0x027352B3#32 0 7 = 0b0110011#7 ∧ bits 0x027352B3#32 12 3 = 0b101#3 ∧ bits 0x027352B3#32 25 7 = 0b0000001#7) ∧
  (bits 0x027362B3#32 0 7 = 0b0110011#7 ∧ bits 0x027362B3#32 12 3 = 0b110#3 ∧ bits 0x027362B3#32 25 7 = 0b0000001#7) ∧
  (bits 0x027372B3#32 0 7 = 0b0110011#7 ∧ bits 0x027372B3#32 12 3 = 0b111#3 ∧ bits 0x027372B3#32 25 7 = 0b0000001#7) := by decide
theorem test_witness_forms_DivideWordResults :
  (bits 0x027342BB#32 0 7 = 0b0111011#7 ∧ bits 0x027342BB#32 12 3 = 0b100#3 ∧ bits 0x027342BB#32 25 7 = 0b0000001#7) ∧
  (bits 0x027352BB#32 0 7 = 0b0111011#7 ∧ bits 0x027352BB#32 12 3 = 0b101#3 ∧ bits 0x027352BB#32 25 7 = 0b0000001#7) ∧
  (bits 0x027362BB#32 0 7 = 0b0111011#7 ∧ bits 0x027362BB#32 12 3 = 0b110#3 ∧ bits 0x027362BB#32 25 7 = 0b0000001#7) ∧
  (bits 0x027372BB#32 0 7 = 0b0111011#7 ∧ bits 0x027372BB#32 12 3 = 0b111#3 ∧ bits 0x027372BB#32 25 7 = 0b0000001#7) := by decide
theorem test_witness_forms_FloatLoadAndStore :
  (bits 0x00432087#32 0 7 = 0b0000111#7 ∧ bits 0x00432087#32 12 3 = 0b010#3) ∧
  (bits 0x00232027#32 0 7 = 0b0100111#7 ∧ bits 0x00232027#32 12 3 = 0b010#3) := by decide
theorem test_witness_forms_FloatArithmeticCompletes :
  (bits 0x002081D3#32 0 7 = 0b1010011#7 ∧ bits 0x002081D3#32 25 7 = 0b0000000#7) ∧
  (bits 0x082081D3#32 0 7 = 0b1010011#7 ∧ bits 0x082081D3#32 25 7 = 0b0000100#7) ∧
  (bits 0x102081D3#32 0 7 = 0b1010011#7 ∧ bits 0x102081D3#32 25 7 = 0b0001000#7) ∧
  (bits 0x182081D3#32 0 7 = 0b1010011#7 ∧ bits 0x182081D3#32 25 7 = 0b0001100#7) ∧
  (bits 0x580081D3#32 0 7 = 0b1010011#7 ∧ bits 0x580081D3#32 25 7 = 0b0101100#7 ∧ bits 0x580081D3#32 20 5 = 0b00000#5) := by decide
theorem test_witness_forms_FusedMultiplyAddCompletes :
  (bits 0x18208243#32 0 7 = 0b1000011#7 ∧ bits 0x18208243#32 25 2 = 0b00#2) ∧
  (bits 0x18208247#32 0 7 = 0b1000111#7 ∧ bits 0x18208247#32 25 2 = 0b00#2) ∧
  (bits 0x1820824B#32 0 7 = 0b1001011#7 ∧ bits 0x1820824B#32 25 2 = 0b00#2) ∧
  (bits 0x1820824F#32 0 7 = 0b1001111#7 ∧ bits 0x1820824F#32 25 2 = 0b00#2) := by decide
theorem test_witness_forms_SignInjectionResults :
  (bits 0x202081D3#32 0 7 = 0b1010011#7 ∧ bits 0x202081D3#32 12 3 = 0b000#3 ∧ bits 0x202081D3#32 25 7 = 0b0010000#7) ∧
  (bits 0x201091D3#32 0 7 = 0b1010011#7 ∧ bits 0x201091D3#32 12 3 = 0b001#3 ∧ bits 0x201091D3#32 25 7 = 0b0010000#7) ∧
  (bits 0x2010A1D3#32 0 7 = 0b1010011#7 ∧ bits 0x2010A1D3#32 12 3 = 0b010#3 ∧ bits 0x2010A1D3#32 25 7 = 0b0010000#7) := by decide
theorem test_witness_forms_MinMaxResults :
  (bits 0x282081D3#32 0 7 = 0b1010011#7 ∧ bits 0x282081D3#32 12 3 = 0b000#3 ∧ bits 0x282081D3#32 25 7 = 0b0010100#7) ∧
  (bits 0x282091D3#32 0 7 = 0b1010011#7 ∧ bits 0x282091D3#32 12 3 = 0b001#3 ∧ bits 0x282091D3#32 25 7 = 0b0010100#7) := by decide
theorem test_witness_forms_FloatCompareResults :
  (bits 0xA020A2D3#32 0 7 = 0b1010011#7 ∧ bits 0xA020A2D3#32 12 3 = 0b010#3 ∧ bits 0xA020A2D3#32 25 7 = 0b1010000#7) ∧
  (bits 0xA02092D3#32 0 7 = 0b1010011#7 ∧ bits 0xA02092D3#32 12 3 = 0b001#3 ∧ bits 0xA02092D3#32 25 7 = 0b1010000#7) ∧
  (bits 0xA02082D3#32 0 7 = 0b1010011#7 ∧ bits 0xA02082D3#32 12 3 = 0b000#3 ∧ bits 0xA02082D3#32 25 7 = 0b1010000#7) := by decide
theorem test_witness_forms_ClassifyResults :
  (bits 0xE00092D3#32 0 7 = 0b1010011#7 ∧ bits 0xE00092D3#32 25 7 = 0b1110000#7 ∧ bits 0xE00092D3#32 20 5 = 0b00000#5 ∧ bits 0xE00092D3#32 12 3 = 0b001#3) := by decide
theorem test_witness_forms_FloatToIntegerResults :
  (bits 0xC00082D3#32 0 7 = 0b1010011#7 ∧ bits 0xC00082D3#32 25 7 = 0b1100000#7 ∧ bits 0xC00082D3#32 20 5 = 0b00000#5) ∧
  (bits 0xC01092D3#32 0 7 = 0b1010011#7 ∧ bits 0xC01092D3#32 25 7 = 0b1100000#7 ∧ bits 0xC01092D3#32 20 5 = 0b00001#5) ∧
  (bits 0xC02092D3#32 0 7 = 0b1010011#7 ∧ bits 0xC02092D3#32 25 7 = 0b1100000#7 ∧ bits 0xC02092D3#32 20 5 = 0b00010#5) ∧
  (bits 0xC03092D3#32 0 7 = 0b1010011#7 ∧ bits 0xC03092D3#32 25 7 = 0b1100000#7 ∧ bits 0xC03092D3#32 20 5 = 0b00011#5) := by decide
theorem test_witness_forms_FloatMoveResults :
  (bits 0xE0008353#32 0 7 = 0b1010011#7 ∧ bits 0xE0008353#32 25 7 = 0b1110000#7 ∧ bits 0xE0008353#32 20 5 = 0b00000#5 ∧ bits 0xE0008353#32 12 3 = 0b000#3) ∧
  (bits 0xF00280D3#32 0 7 = 0b1010011#7 ∧ bits 0xF00280D3#32 25 7 = 0b1111000#7 ∧ bits 0xF00280D3#32 20 5 = 0b00000#5 ∧ bits 0xF00280D3#32 12 3 = 0b000#3) := by decide
theorem test_witness_forms_IntegerToFloatResults :
  (bits 0xD00280D3#32 0 7 = 0b1010011#7 ∧ bits 0xD00280D3#32 25 7 = 0b1101000#7 ∧ bits 0xD00280D3#32 20 5 = 0b00000#5) ∧
  (bits 0xD01280D3#32 0 7 = 0b1010011#7 ∧ bits 0xD01280D3#32 25 7 = 0b1101000#7 ∧ bits 0xD01280D3#32 20 5 = 0b00001#5) ∧
  (bits 0xD02280D3#32 0 7 = 0b1010011#7 ∧ bits 0xD02280D3#32 25 7 = 0b1101000#7 ∧ bits 0xD02280D3#32 20 5 = 0b00010#5) ∧
  (bits 0xD03280D3#32 0 7 = 0b1010011#7 ∧ bits 0xD03280D3#32 25 7 = 0b1101000#7 ∧ bits 0xD03280D3#32 20 5 = 0b00011#5) := by decide
theorem test_witness_forms_LoadReservedAndStoreConditional :
  (bits 0x1003A2AF#32 0 7 = 0b0101111#7 ∧ bits 0x1003A2AF#32 12 3 = 0b010#3 ∧ bits 0x1003A2AF#32 27 5 = 0b00010#5 ∧ bits 0x1003A2AF#32 20 5 = 0b00000#5) ∧
  (bits 0x1003B2AF#32 0 7 = 0b0101111#7 ∧ bits 0x1003B2AF#32 12 3 = 0b011#3 ∧ bits 0x1003B2AF#32 27 5 = 0b00010#5 ∧ bits 0x1003B2AF#32 20 5 = 0b00000#5) ∧
  (bits 0x1863A2AF#32 0 7 = 0b0101111#7 ∧ bits 0x1863A2AF#32 12 3 = 0b010#3 ∧ bits 0x1863A2AF#32 27 5 = 0b00011#5) ∧
  (bits 0x1863B2AF#32 0 7 = 0b0101111#7 ∧ bits 0x1863B2AF#32 12 3 = 0b011#3 ∧ bits 0x1863B2AF#32 27 5 = 0b00011#5) := by decide
theorem test_witness_forms_AtomicWordOperations :
  (bits 0x0863A2AF#32 0 7 = 0b0101111#7 ∧ bits 0x0863A2AF#32 12 3 = 0b010#3 ∧ bits 0x0863A2AF#32 27 5 = 0b00001#5) ∧
  (bits 0x0063A2AF#32 0 7 = 0b0101111#7 ∧ bits 0x0063A2AF#32 12 3 = 0b010#3 ∧ bits 0x0063A2AF#32 27 5 = 0b00000#5) ∧
  (bits 0x2063A2AF#32 0 7 = 0b0101111#7 ∧ bits 0x2063A2AF#32 12 3 = 0b010#3 ∧ bits 0x2063A2AF#32 27 5 = 0b00100#5) ∧
  (bits 0x6063A2AF#32 0 7 = 0b0101111#7 ∧ bits 0x6063A2AF#32 12 3 = 0b010#3 ∧ bits 0x6063A2AF#32 27 5 = 0b01100#5) ∧
  (bits 0x4063A2AF#32 0 7 = 0b0101111#7 ∧ bits 0x4063A2AF#32 12 3 = 0b010#3 ∧ bits 0x4063A2AF#32 27 5 = 0b01000#5) ∧
  (bits 0x8063A2AF#32 0 7 = 0b0101111#7 ∧ bits 0x8063A2AF#32 12 3 = 0b010#3 ∧ bits 0x8063A2AF#32 27 5 = 0b10000#5) ∧
  (bits 0xA063A2AF#32 0 7 = 0b0101111#7 ∧ bits 0xA063A2AF#32 12 3 = 0b010#3 ∧ bits 0xA063A2AF#32 27 5 = 0b10100#5) ∧
  (bits 0xC063A2AF#32 0 7 = 0b0101111#7 ∧ bits 0xC063A2AF#32 12 3 = 0b010#3 ∧ bits 0xC063A2AF#32 27 5 = 0b11000#5) ∧
  (bits 0xE063A2AF#32 0 7 = 0b0101111#7 ∧ bits 0xE063A2AF#32 12 3 = 0b010#3 ∧ bits 0xE063A2AF#32 27 5 = 0b11100#5) := by decide
theorem test_witness_forms_AtomicDoublewordOperations :
  (bits 0x0863B2AF#32 0 7 = 0b0101111#7 ∧ bits 0x0863B2AF#32 12 3 = 0b011#3 ∧ bits 0x0863B2AF#32 27 5 = 0b00001#5) ∧
  (bits 0x0063B2AF#32 0 7 = 0b0101111#7 ∧ bits 0x0063B2AF#32 12 3 = 0b011#3 ∧ bits 0x0063B2AF#32 27 5 = 0b00000#5) ∧
  (bits 0x2063B2AF#32 0 7 = 0b0101111#7 ∧ bits 0x2063B2AF#32 12 3 = 0b011#3 ∧ bits 0x2063B2AF#32 27 5 = 0b00100#5) ∧
  (bits 0x6063B2AF#32 0 7 = 0b0101111#7 ∧ bits 0x6063B2AF#32 12 3 = 0b011#3 ∧ bits 0x6063B2AF#32 27 5 = 0b01100#5) ∧
  (bits 0x4063B2AF#32 0 7 = 0b0101111#7 ∧ bits 0x4063B2AF#32 12 3 = 0b011#3 ∧ bits 0x4063B2AF#32 27 5 = 0b01000#5) ∧
  (bits 0x8063B2AF#32 0 7 = 0b0101111#7 ∧ bits 0x8063B2AF#32 12 3 = 0b011#3 ∧ bits 0x8063B2AF#32 27 5 = 0b10000#5) ∧
  (bits 0xA063B2AF#32 0 7 = 0b0101111#7 ∧ bits 0xA063B2AF#32 12 3 = 0b011#3 ∧ bits 0xA063B2AF#32 27 5 = 0b10100#5) ∧
  (bits 0xC063B2AF#32 0 7 = 0b0101111#7 ∧ bits 0xC063B2AF#32 12 3 = 0b011#3 ∧ bits 0xC063B2AF#32 27 5 = 0b11000#5) ∧
  (bits 0xE063B2AF#32 0 7 = 0b0101111#7 ∧ bits 0xE063B2AF#32 12 3 = 0b011#3 ∧ bits 0xE063B2AF#32 27 5 = 0b11100#5) := by decide
theorem test_witness_forms_CsrRegisterForms :
  (bits 0x340312F3#32 0 7 = 0b1110011#7 ∧ bits 0x340312F3#32 12 3 = 0b001#3) ∧
  (bits 0x340022F3#32 0 7 = 0b1110011#7 ∧ bits 0x340022F3#32 12 3 = 0b010#3) ∧
  (bits 0x340332F3#32 0 7 = 0b1110011#7 ∧ bits 0x340332F3#32 12 3 = 0b011#3) := by decide
theorem test_witness_forms_CsrImmediateForms :
  (bits 0x340AD2F3#32 0 7 = 0b1110011#7 ∧ bits 0x340AD2F3#32 12 3 = 0b101#3) ∧
  (bits 0x3404E2F3#32 0 7 = 0b1110011#7 ∧ bits 0x3404E2F3#32 12 3 = 0b110#3) ∧
  (bits 0x340C72F3#32 0 7 = 0b1110011#7 ∧ bits 0x340C72F3#32 12 3 = 0b111#3) := by decide
theorem test_witness_forms_FencesChangeNothing :
  (bits 0x0FF0000F#32 0 7 = 0b0001111#7 ∧ bits 0x0FF0000F#32 12 3 = 0b000#3) ∧
  (bits 0x0000100F#32 0 7 = 0b0001111#7 ∧ bits 0x0000100F#32 12 3 = 0b001#3) := by decide

/-- The amounts at both ends, and the words the two statements reject. -/
theorem test_witness_ShiftImmediateResults : (0#64).toNat < 64 ∧ (63#64).toNat < 64 ∧
    bits 0x04031293#32 0 7 = 0b0010011#7 ∧ bits 0x04031293#32 12 3 = 0b001#3 ∧ bits 0x04031293#32 26 6 ≠ 0b000000#6 := by
  decide
theorem test_witness_WordShiftImmediateResults : (0#64).toNat < 32 ∧ (31#64).toNat < 32 ∧
    bits 0x0203129B#32 0 7 = 0b0011011#7 ∧ bits 0x0203129B#32 12 3 = 0b001#3 ∧ bits 0x0203129B#32 25 1 = 1#1 := by decide
theorem test_witness_MultiplyResults : bits 0x027312BB#32 0 7 = 0b0111011#7 ∧ bits 0x027312BB#32 25 7 = 0b0000001#7 ∧
    bits 0x027312BB#32 12 3 = 0b001#3 := by decide

/-- LoadsReadTheirWindow, StoresWriteTheirWindow, FloatLoadAndStore: for each width the last window inside the buffer
and the first outside it, and a window that would wrap. -/
theorem test_witness_windows :
    (let s := start [.x 6 0x1FF8]
     (Inside s (s.readX 6 + 7) .byte ∧ ¬ Inside s (s.readX 6 + 8) .byte) ∧
     (Inside s (s.readX 6 + 6) .half ∧ ¬ Inside s (s.readX 6 + 7) .half) ∧
     (Inside s (s.readX 6 + 4) .word ∧ ¬ Inside s (s.readX 6 + 5) .word) ∧
     (Inside s (s.readX 6 + 0) .double ∧ ¬ Inside s (s.readX 6 + 1) .double) ∧
     Inside s (s.readX 0 + 0) .double ∧ ¬ Inside s (s.readX 0 + (-1)) .byte) := by
  simp only [Inside]; decide +kernel

/-- R200: the displacements at both ends of the negative range, and their neighbours outside it. -/
theorem test_witness_negative_displacement : NegativeDisplacement (-1) ∧ NegativeDisplacement (-2048) ∧
    ¬ NegativeDisplacement 0 ∧ ¬ NegativeDisplacement (-2049) := by
  simp only [NegativeDisplacement]; decide

theorem test_witness_LoadsReadTheirWindow : bits 0x00037283#32 0 7 = 0b0000011#7 ∧ bits 0x00037283#32 12 3 = 0b111#3 := by
  decide
theorem test_witness_StoresWriteTheirWindow : bits 0x00734023#32 0 7 = 0b0100011#7 ∧ bits 0x00734023#32 14 1 = 1#1 := by
  decide

/-- LoadReservedAndStoreConditional, AtomicWordOperations, AtomicDoublewordOperations: the window at `x[rs1]`. -/
theorem test_witness_atomic_windows :
    (let s := start [.x 7 0x1FF8]; Inside s (s.readX 7) .double ∧ Inside s (s.readX 7) .word) ∧
    (let s := start [.x 7 0x1FFC]; ¬ Inside s (s.readX 7) .double ∧ Inside s (s.readX 7) .word) ∧
    (let s := start [.x 7 0x1FFD]; ¬ Inside s (s.readX 7) .word) := by
  simp only [Inside]; decide +kernel

/-- SignInjectionResults, FloatCompareResults, FloatMoveResults: a word each that the statement rejects. -/
theorem test_witness_float_places :
    (bits 0x2020B1D3#32 0 7 = 0b1010011#7 ∧ bits 0x2020B1D3#32 25 7 = 0b0010000#7 ∧ bits 0x2020B1D3#32 12 3 = 0b011#3) ∧
    (bits 0xA020B2D3#32 0 7 = 0b1010011#7 ∧ bits 0xA020B2D3#32 25 7 = 0b1010000#7 ∧ bits 0xA020B2D3#32 12 3 = 0b011#3) ∧
    (bits 0xF00290D3#32 0 7 = 0b1010011#7 ∧ bits 0xF00290D3#32 25 7 = 0b1111000#7 ∧ bits 0xF00290D3#32 12 3 ≠ 0b000#3) := by
  decide

/-! Floating point: the classes at their boundaries, and the ranges the rounding statements split on. -/

theorem test_witness_classes :
    IsFinite 0x7F7FFFFF#32 ∧ IsFinite 0x00000000#32 ∧ IsFinite 0x80000001#32 ∧ ¬ IsFinite 0x7F800000#32 ∧
    NaN 0x7F800001#32 ∧ NaN 0xFFFFFFFF#32 ∧ ¬ NaN 0x7F800000#32 ∧ ¬ NaN 0xFF800000#32 := by
  simp only [IsFinite, NaN]; decide

theorem value_max : value 0x7F7FFFFF#32 = 2 ^ 128 - 2 ^ 104 := by decide +kernel
theorem value_one : value 0x3F800000#32 = 1 := by decide +kernel
theorem value_half_ulp : value 0x73000000#32 = 2 ^ 103 := by decide +kernel

/-- A sum below the overflow threshold, one at it, and a quotient. -/
theorem test_witness_FloatArithmeticRoundsOnce :
    (IsFinite 0x3F800000#32 ∧ value 0x3F800000#32 ≠ 0 ∧
      ((value 0x3F800000#32 + value 0x3F800000#32 : ℚ) : ℝ) ≠ 0 ∧
      |((value 0x3F800000#32 + value 0x3F800000#32 : ℚ) : ℝ)| < 2 ^ 128 - 2 ^ 103) ∧
    (IsFinite 0x7F7FFFFF#32 ∧ IsFinite 0x73000000#32 ∧
      2 ^ 128 - 2 ^ 103 ≤ |((value 0x7F7FFFFF#32 + value 0x73000000#32 : ℚ) : ℝ)|) := by
  rw [value_max, value_one, value_half_ulp]
  refine ⟨⟨by simp only [IsFinite]; decide, by norm_num, by norm_num, ?_⟩, by simp only [IsFinite]; decide,
    by simp only [IsFinite]; decide, ?_⟩
  · push_cast; rw [abs_of_pos (by norm_num)]; norm_num
  · push_cast; rw [abs_of_pos (by norm_num)]; norm_num

theorem test_witness_FusedRoundsOnce :
    IsFinite 0x7F7FFFFF#32 ∧ IsFinite 0x3F800000#32 ∧ IsFinite 0x73000000#32 ∧
      ((value 0x7F7FFFFF#32 * value 0x3F800000#32 + value 0x73000000#32 : ℚ) : ℝ) ≠ 0 := by
  rw [value_max, value_one, value_half_ulp]
  refine ⟨by simp only [IsFinite]; decide, by simp only [IsFinite]; decide, by simp only [IsFinite]; decide, ?_⟩
  norm_num

/-- The smallest and the largest positive operand. -/
theorem test_witness_SquareRootRoundsOnce :
    (IsFinite 0x00000001#32 ∧ 0 < value 0x00000001#32) ∧ (IsFinite 0x7F7FFFFF#32 ∧ 0 < value 0x7F7FFFFF#32) := by
  simp only [IsFinite]; decide +kernel

/-- For each clause an operand that meets it: a NaN, a negative finite number, a finite non-zero number, an exact
cancellation, and equal operands. -/
theorem test_witness_FloatSpecialResults :
    NaN 0x7FC00000#32 ∧ (IsFinite 0x80000001#32 ∧ value 0x80000001#32 < 0) ∧ (IsFinite 0x00000001#32 ∧ value 0x00000001#32 ≠ 0) ∧
    (IsFinite 0x3F800000#32 ∧ IsFinite 0xBF800000#32 ∧ value 0x3F800000#32 ≠ 0 ∧ value 0x3F800000#32 + value 0xBF800000#32 = 0) ∧
    value 0x3F800000#32 = value 0x3F800000#32 := by
  simp only [IsFinite, NaN]; decide +kernel

theorem test_witness_FusedSpecialResults :
    (¬ NaN 0x7F800000#32 ∧ 0x7F800000#32 ≠ zero true ∧ 0x7F800000#32 ≠ zero false) ∧
    (¬ NaN 0x00000001#32 ∧ 0x00000001#32 ≠ zero true ∧ 0x00000001#32 ≠ zero false ∧ IsFinite 0x7F7FFFFF#32) ∧
    (IsFinite 0x3F800000#32 ∧ IsFinite 0xBF800000#32 ∧
      value 0x3F800000#32 * value 0x3F800000#32 + value 0xBF800000#32 = 0) := by
  simp only [IsFinite, NaN]; decide +kernel

/-- Two numbers in order, two equal (the zeros), a NaN on either side and on both. -/
theorem test_witness_MinMaxResults :
    (¬ NaN 0xFF800000#32 ∧ ¬ NaN 0x7F800000#32 ∧ extValue 0xFF800000#32 < extValue 0x7F800000#32) ∧
    (¬ NaN 0x80000000#32 ∧ ¬ NaN 0x00000000#32 ∧ extValue 0x80000000#32 = extValue 0x00000000#32) ∧
    NaN 0x7F800001#32 ∧ NaN 0xFFC00001#32 := by
  refine ⟨⟨by simp only [NaN]; decide, by simp only [NaN]; decide, ?_⟩,
    ⟨by simp only [NaN]; decide, by simp only [NaN]; decide, ?_⟩, by simp only [NaN]; decide, by simp only [NaN]; decide⟩
  · simp only [extValue]
    rw [if_pos (by decide), if_neg (by decide), if_pos (by decide)]
    exact WithBot.bot_lt_coe _
  · simp only [extValue]
    rw [if_neg (by decide), if_neg (by decide), if_neg (by decide), if_neg (by decide)]
    rw [show value 0x80000000#32 = value 0x00000000#32 by decide +kernel]

theorem test_witness_IntegerToFloatResults : RmField.reserved5 = .reserved5 ∧ RmField.ofBits 0b110#3 = .reserved6 ∧
    RmField.ofBits 0b111#3 = .dyn ∧ RmField.ofBits 0b100#3 = .static .rmm := by decide

/-- The ends of the two ranges, and 0. -/
theorem test_witness_IntegerToFloatRoundsAsNamed :
    |(2 ^ 64 : Int)| ≤ 2 ^ 64 ∧ |(-2 ^ 63 : Int)| ≤ 2 ^ 64 ∧ |(-2 ^ 24 : Int)| ≤ 2 ^ 24 ∧ |(0 : Int)| ≤ 2 ^ 64 := by decide

/-- CsrRegisterForms, CsrImmediateForms: both sides of every write condition. -/
theorem test_witness_csr_conditions : (0 : Reg) = 0 ∧ (1 : Reg) ≠ 0 ∧ (0#5) = 0 ∧ (31#5) ≠ 0 := by decide

end Sys2Proof.Tests
end

/-! ## Family 10_state: reset, the cycle and its invariant, the register files, the upper words of the containers

First the facts the statements need, in the order of the definitions they speak of; then the settled statements. -/

/-! ### Every decoded instruction is well-formed (R81, R90 to R95) -/

namespace Sys2Proof

theorem setWidth_signExtend_self {n m : Nat} (hn : n ≤ m) (v : BitVec n) : (v.signExtend m).setWidth n = v := by
  ext i hi
  have : i < m := by omega
  simp [BitVec.getElem_signExtend, hi, this]

theorem fitsSigned_sext64 {n : Nat} (hn : n ≤ 64) (v : BitVec n) : fitsSigned n (sext64 v) = true := by
  simp only [fitsSigned, sext64, setWidth_signExtend_self hn, beq_self_eq_true]

theorem fitsUnsigned_zext64 {n : Nat} (hn : n ≤ 64) (v : BitVec n) : fitsUnsigned n (zext64 v) = true := by
  simp [fitsUnsigned, zext64, BitVec.setWidth_setWidth_of_le v hn]

@[simp] theorem fitsSigned_immI (w : Word32) : fitsSigned 12 (immI w) = true := fitsSigned_sext64 (by decide) _
@[simp] theorem fitsSigned_immS (w : Word32) : fitsSigned 12 (immS w) = true := fitsSigned_sext64 (by decide) _
@[simp] theorem fitsSigned_immB (w : Word32) : fitsSigned 12 (immB w) = true := fitsSigned_sext64 (by decide) _
@[simp] theorem fitsSigned_immU (w : Word32) : fitsSigned 20 (immU w) = true := fitsSigned_sext64 (by decide) _
@[simp] theorem fitsSigned_immJ (w : Word32) : fitsSigned 21 (immJ w) = true := fitsSigned_sext64 (by decide) _
@[simp] theorem fitsUnsigned_shamt6 (w : Word32) : fitsUnsigned 6 (shamt6 w) = true := fitsUnsigned_zext64 (by decide) _
@[simp] theorem fitsUnsigned_shamt5 (w : Word32) : fitsUnsigned 5 (shamt5 w) = true := fitsUnsigned_zext64 (by decide) _

/-- A jump offset is even (R94). -/
@[simp] theorem immJ_even (w : Word32) : (immJ w)[0] = false := by
  rw [← BitVec.getLsbD_eq_getElem]
  simp only [immJ, sext64, BitVec.getLsbD_signExtend, BitVec.getLsbD_append]
  simp

/-! What a row of the table makes of a word is well-formed, group by group. -/

theorem rowsControl_wf (w : Word32) : ∀ r ∈ rowsControl, (r.build w).wf = true := by simp [rowsControl, Instr.wf]
theorem rowsLoadStore_wf (w : Word32) : ∀ r ∈ rowsLoadStore, (r.build w).wf = true := by simp [rowsLoadStore, Instr.wf]
theorem rowsOpImm_wf (w : Word32) : ∀ r ∈ rowsOpImm, (r.build w).wf = true := by simp [rowsOpImm, Instr.wf]
theorem rowsOp_wf (w : Word32) : ∀ r ∈ rowsOp, (r.build w).wf = true := by simp [rowsOp, Instr.wf]
theorem rowsMulDiv_wf (w : Word32) : ∀ r ∈ rowsMulDiv, (r.build w).wf = true := by simp [rowsMulDiv, Instr.wf]
theorem rowsCsrFence_wf (w : Word32) : ∀ r ∈ rowsCsrFence, (r.build w).wf = true := by simp [rowsCsrFence, Instr.wf]
theorem rowsAtomic_wf (w : Word32) : ∀ r ∈ rowsAtomic, (r.build w).wf = true := by simp [rowsAtomic, Instr.wf]
theorem rowsFloat_wf (w : Word32) : ∀ r ∈ rowsFloat, (r.build w).wf = true := by simp [rowsFloat, Instr.wf]

theorem build_wf {r : Row} (hr : r ∈ rows) (w : Word32) : (r.build w).wf = true := by
  simp only [rows, List.mem_append] at hr
  rcases hr with ((((((hr | hr) | hr) | hr) | hr) | hr) | hr) | hr
  exacts [rowsControl_wf w r hr, rowsLoadStore_wf w r hr, rowsOpImm_wf w r hr, rowsOp_wf w r hr, rowsMulDiv_wf w r hr,
    rowsCsrFence_wf w r hr, rowsAtomic_wf w r hr, rowsFloat_wf w r hr]

theorem decode_wf {w : Word32} {i : Instr} (h : decode w = .ok i) : i.wf = true := by
  obtain ⟨r, hr, -, rfl⟩ := row_of_decode h
  exact build_wf hr w

end Sys2Proof

namespace Sys2Proof.Machine

open Claims

/-! ### A window and the fetched word (R52, R53) -/

/-- The model's little-endian value of a window is the sum R52 writes. -/
theorem leValue_eq_windowValue (m : Memory) (a n : Nat) : m.leValue a n = windowValue m a n := by
  induction n generalizing a with
  | zero => rfl
  | succ n ih =>
    simp only [Memory.leValue, windowValue, List.range_succ_eq_map, List.map_cons, List.sum_cons, List.map_map, ih,
      ← List.sum_map_mul_left, pow_zero, Nat.mul_one, Nat.add_zero]
    congr 3
    funext i
    simp only [Function.comp_apply, pow_succ, Nat.succ_eq_add_one]
    rw [show a + 1 + i = a + (i + 1) by omega]
    ring

/-- A fetch inside the buffer delivers the 32-bit little-endian word at pc (R53, R69). -/
theorem fetch_inside {s : State} (h : Inside s s.pc .word) :
    fetch s = .ok (BitVec.ofNat 32 (windowValue s.mem s.pc.toNat 4)) := by
  rw [fetch, read_inside ((inside_iff ..).2 h), leValue_eq_windowValue]
  simp [Width.bytes]

/-! ### What every effect leaves alone -/

/-- No effect touches fcsr, the privilege level, MEM_SIZE or `halted`. -/
theorem Effect.frame {i : Instr} {s t : State} (h : Effect i s t) :
    t.fcsr = s.fcsr ∧ t.priv = s.priv ∧ t.mem.size = s.mem.size ∧ t.halted = s.halted := by
  cases h with
  | nothing | putX | putS | csr | jump | branch => simp
  | store _ _ _ _ h | storePut _ _ _ _ _ _ h => simp [write_size h]

/-- Bits 63:32 of a boxed pattern are all ones (R33). -/
theorem box_upper (w : Word32) : (box w).extractLsb' 32 32 = 0xFFFFFFFF#32 := BitVec.extractLsb'_append_eq_left

/-- An effect leaves each container as it was or boxes a pattern into it (R34). -/
theorem Effect.readF {i : Instr} {s t : State} (h : Effect i s t) (r : Reg) :
    t.readF r = s.readF r ∨ ∃ w, t.readF r = box w := by
  cases h with
  | nothing | putX | csr | jump | branch | store | storePut => simp
  | putS rd w =>
    rw [readF_writeS]
    split
    · exact .inr ⟨w, rfl⟩
    · exact .inl rfl

/-! ### The invariant, update by update -/

namespace State.Inv

variable {s : State}

theorem writeX (h : s.Inv) (rd : Reg) (v : Word) : (s.writeX rd v).Inv where
  mem := by simpa using h.mem
  csr := by simpa using h.csr
  x0 := (writeX_x0 s rd v).trans h.x0
  pc := by simpa using h.pc
  fcsr := by simpa [State.fcsrUpperZero] using h.fcsr
  priv := by simpa using h.priv

theorem writeS (h : s.Inv) (rd : Reg) (w : Word32) : (s.writeS rd w).Inv := { h with }

/-- A CSR index is below the size of the bank (R36). -/
theorem writeCsr (h : s.Inv) (a : CsrIndex) (v : Word) : (s.writeCsr a v).Inv :=
  { h with csr := sparseWf_put v a.isLt h.csr }

theorem withMem (h : s.Inv) {m : Memory} (hm : m.wf) : ({ s with mem := m } : State).Inv := { h with mem := hm }

theorem jumpTo (h : s.Inv) {target : Word} (even : target.getLsbD 0 = false) : (s.jumpTo target).Inv :=
  { h with pc := by rw [jumpTo_pc, BitVec.sub_eq_add_neg, getLsbD_zero_add, even]; decide }

theorem advance (h : s.Inv) : (advance s).Inv :=
  { h with pc := by rw [advance_pc, getLsbD_zero_add, h.pc]; decide }

theorem clamp (h : s.Inv) : (clamp s).Inv := { h with x0 := clamp_x0 s }

end State.Inv

/-- Every effect of a well-formed instruction keeps the invariant. -/
theorem Effect.inv {i : Instr} {s t : State} (h : Effect i s t) (hw : i.wf = true) (hs : s.Inv) : t.Inv := by
  cases h with
  | nothing => exact hs
  | putX rd v => exact hs.writeX rd v
  | putS rd w => exact hs.writeS rd w
  | store addr w v m h => exact hs.withMem (write_wf h hs.mem)
  | storePut addr w v m rd u h => exact (hs.withMem (write_wf h hs.mem)).writeX rd u
  | csr rd a v u => exact (hs.writeCsr a v).writeX rd u
  | jump rd target link even => exact (hs.writeX rd link).jumpTo (even hw hs.pc)
  | branch target even => exact hs.jumpTo (even hw hs.pc)

/-! ### Runs that differ in the upper words of the containers only (R34) -/

/-- The state with the containers `g`. -/
def State.withF (s : State) (g : Vector Word 32) : State := { s with f := g }

/-- The containers `g` hold the low words of those of `s`. -/
def LowWords (s : State) (g : Vector Word 32) : Prop := ∀ r : Reg, unbox g[r.val] = s.readS r

/-- The second answer is the first but for the upper words of the containers. -/
def AlikeBelow : Result → Result → Prop
  | .next t, r => ∃ h, LowWords t h ∧ r = .next (t.withF h)
  | .fault e, r => r = .fault e
  | .refused q, r => r = .refused q

section
variable {s : State} {g : Vector Word 32}

theorem withF_mem (s : State) (g : Vector Word 32) : (s.withF g).mem = s.mem := rfl
theorem readX_withF (s : State) (g : Vector Word 32) (r : Reg) : (s.withF g).readX r = s.readX r := rfl
theorem readS_withF (hg : LowWords s g) (r : Reg) : (s.withF g).readS r = s.readS r := hg r

theorem LowWords.of_f_eq (hg : LowWords s g) {t : State} (h : t.f = s.f) : LowWords t g := fun r => by
  rw [hg r, State.readS, State.readS, State.readF, State.readF, h]

theorem writeX_withF (s : State) (g : Vector Word 32) (rd : Reg) (v : Word) :
    (s.withF g).writeX rd v = (s.writeX rd v).withF g := by
  unfold State.writeX; split <;> rfl

theorem putX_alike (hg : LowWords s g) (rd : Reg) (v : Word) :
    AlikeBelow (putX rd v s) (putX rd v (s.withF g)) :=
  ⟨g, hg.of_f_eq (writeX_f s rd v), congrArg _ (writeX_withF s g rd v)⟩

theorem putS_alike (hg : LowWords s g) (rd : Reg) (w : Word32) :
    AlikeBelow (putS rd w s) (putS rd w (s.withF g)) := by
  refine ⟨g.set rd.val (box w), fun r => ?_, rfl⟩
  have := readS_writeS (s.withF g) rd r w
  rw [readS_writeS, ← readS_withF hg r]
  exact this

theorem loadX_alike (hg : LowWords s g) (w : Width) (ext : Word → Word) (rd : Reg) (addr : Word) :
    AlikeBelow (loadX w ext rd addr s) (loadX w ext rd addr (s.withF g)) := by
  simp only [loadX, withF_mem]
  cases s.mem.read addr w with
  | some v => exact putX_alike hg rd (ext v)
  | none => rfl

theorem loadS_alike (hg : LowWords s g) (rd : Reg) (addr : Word) :
    AlikeBelow (loadS rd addr s) (loadS rd addr (s.withF g)) := by
  simp only [loadS, withF_mem]
  cases s.mem.read addr .word with
  | some v => exact putS_alike hg rd (v.setWidth 32)
  | none => rfl

theorem store_alike (hg : LowWords s g) (w : Width) (addr v : Word) :
    AlikeBelow (store w addr v s) (store w addr v (s.withF g)) := by
  simp only [store, withF_mem]
  cases s.mem.write addr w v with
  | some m => exact ⟨g, hg, rfl⟩
  | none => rfl

theorem storeCond_alike (hg : LowWords s g) (w : Width) (rd : Reg) (addr v : Word) :
    AlikeBelow (storeCond w rd addr v s) (storeCond w rd addr v (s.withF g)) := by
  simp only [storeCond, withF_mem]
  cases s.mem.write addr w v with
  | some m => exact putX_alike (s := { s with mem := m }) hg rd 0
  | none => rfl

theorem amo_alike (hg : LowWords s g) (w : Width) (L : Nat) (op : BitVec L → BitVec L → BitVec L) (rd rs1 rs2 : Reg) :
    AlikeBelow (amo w L op rd rs1 rs2 s) (amo w L op rd rs1 rs2 (s.withF g)) := by
  simp only [amo, withF_mem, readX_withF]
  cases s.mem.read (s.readX rs1) w with
  | none => rfl
  | some v =>
    dsimp only
    cases s.mem.write (s.readX rs1) w (zext64 (op (v.setWidth L) ((s.readX rs2).setWidth L))) with
    | none => rfl
    | some m => exact putX_alike (s := { s with mem := m }) hg rd _

theorem csrAccess_alike (hg : LowWords s g) (rd : Reg) (a : CsrIndex) (writes : Bool) (new : Word → Word) :
    AlikeBelow (csrAccess rd a writes new s) (csrAccess rd a writes new (s.withF g)) := by
  cases writes with
  | true => exact putX_alike (s := s.writeCsr a (new (s.readCsr a))) hg rd (s.readCsr a)
  | false => exact putX_alike hg rd (s.readCsr a)

theorem jumpLink_alike (hg : LowWords s g) (rd : Reg) (target : Word) :
    AlikeBelow (jumpLink rd target s) (jumpLink rd target (s.withF g)) :=
  ⟨g, hg.of_f_eq (writeX_f s rd _), by rw [jumpLink_eq, writeX_withF]; rfl⟩

theorem branch_alike (hg : LowWords s g) (taken : Bool) (k : Word) :
    AlikeBelow (branch taken k s) (branch taken k (s.withF g)) := by
  cases taken <;> exact ⟨g, hg, rfl⟩

theorem cvtOfInt_alike (hg : LowWords s g) (rm : RmField) (n : Int) (word : Word32) (rd : Reg) :
    AlikeBelow (cvtOfInt rm n word rd s) (cvtOfInt rm n word rd (s.withF g)) := by
  cases rm with
  | static m => exact putS_alike hg rd (f32OfInt m n)
  | reserved5 | reserved6 | dyn => rfl

/-- Every instruction reads the containers through `unbox` only, so its answer does not depend on their upper words. -/
theorem exec_alike (hg : LowWords s g) (i : Instr) : AlikeBelow (exec i s) (exec i (s.withF g)) := by
  cases i
  all_goals simp only [exec]
  case lui | auipc | addi | slti | sltiu | xori | ori | andi | slli | srli | srai | add | sub | sll | slt | sltu |
      xor | srl | sra | or | and | addiw | slliw | srliw | sraiw | addw | subw | sllw | srlw | sraw | mul | mulh |
      mulhsu | mulhu | div | divu | rem | remu | mulw | divw | divuw | remw | remuw => exact putX_alike hg _ _
  case jal | jalr => exact jumpLink_alike hg _ _
  case beq | bne | blt | bge | bltu | bgeu => exact branch_alike hg _ _
  case lb | lh | lw | ld | lbu | lhu | lwu | lrW | lrD => exact loadX_alike hg _ _ _ _
  case sb | sh | sw | sd => exact store_alike hg _ _ _
  case fence | fenceI => exact ⟨g, hg, rfl⟩
  case csrrw | csrrs | csrrc | csrrwi | csrrsi | csrrci => exact csrAccess_alike hg _ _ _ _
  case scW | scD => exact storeCond_alike hg _ _ _ _
  case amoswapW | amoaddW | amoxorW | amoandW | amoorW | amominW | amomaxW | amominuW | amomaxuW | amoswapD |
      amoaddD | amoxorD | amoandD | amoorD | amominD | amomaxD | amominuD | amomaxuD => exact amo_alike hg _ _ _ _ _ _
  case flw => exact loadS_alike hg _ _
  case fcvtSW | fcvtSWu | fcvtSL | fcvtSLu => exact cvtOfInt_alike hg _ _ _ _
  case fmvWX => exact putS_alike hg _ _
  case fsw rs1 rs2 imm =>
    simp only [execFsw, readS_withF hg]; exact store_alike hg _ _ _
  case fcvtWS | fcvtWuS | fcvtLS | fcvtLuS | fmvXW | feqS | fltS | fleS | fclassS =>
    simp only [execFcvtWS, execFcvtWuS, execFcvtLS, execFcvtLuS, execFmvXW, execFeqS, execFltS, execFleS,
      execFclassS, readS_withF hg]
    exact putX_alike hg _ _
  case fmaddS | fmsubS | fnmsubS | fnmaddS | faddS | fsubS | fmulS | fdivS | fsqrtS | fsgnjS | fsgnjnS | fsgnjxS |
      fminS | fmaxS =>
    simp only [execFmaddS, execFmsubS, execFnmsubS, execFnmaddS, execFaddS, execFsubS, execFmulS, execFdivS,
      execFsqrtS, execFsgnjS, execFsgnjnS, execFsgnjxS, execFminS, execFmaxS, readS_withF hg]
    exact putS_alike hg _ _

end

end Sys2Proof.Machine

/-! ### The statements -/

namespace Sys2Proof.Proofs

open Machine Claims

/-- Settles O9: the effect of a decoded, hence well-formed, instruction keeps the invariant, and so do the advance and
the clamp. -/
theorem stepKeepsTheInvariant : Obligations.StepKeepsTheInvariant := by
  intro s u hs h
  obtain ⟨-, w, i, t, -, hd, he, rfl⟩ := step_next h
  exact ((exec_effect he).inv (decode_wf hd) hs).advance.clamp

/-- Settles O10, by the frame of the eight effects. -/
theorem stepNeverChangesFcsrPrivMemSize : Obligations.StepNeverChangesFcsrPrivMemSize := by
  intro s u h
  obtain ⟨hr, w, i, t, -, -, he, rfl⟩ := step_next h
  obtain ⟨hfcsr, hpriv, hsize, hhalted⟩ := (exec_effect he).frame
  exact ⟨hfcsr, hpriv, hsize, hhalted.trans hr⟩

/-- Settles O12, from the two-state law of `exec`. -/
theorem upperWordsAreNeverObserved : Obligations.UpperWordsAreNeverObserved := by
  intro i s g hg
  have halike : AlikeBelow (exec i s) (exec i { s with f := g }) := exec_alike hg i
  constructor
  · intro t ht
    rwa [ht] at halike
  · intro e he
    rwa [he] at halike

/-- Settles O1, entry by entry from the laws of the reset state. -/
theorem resetLeavesTheTable : Obligations.ResetLeavesTheTable := fun p =>
  ⟨readX_resetWith p, fun _ => rfl, resetWith_fcsr p, fun _ => rfl, resetWith_pc p, resetWith_priv p,
    resetWith_halted p, resetWith_mem p⟩

/-- Settles O2: the chosen buffer and the CSR bank are empty lists. -/
theorem resetMeetsTheInvariant : Obligations.ResetMeetsTheInvariant where
  mem := reset_mem_wf
  csr := by decide
  x0 := by decide
  pc := by decide
  fcsr := by decide
  priv := rfl

/-- Settles O4: no read observes the clamp, and the advance writes pc only. -/
theorem stepRunsTheDecodedInstruction : Obligations.StepRunsTheDecodedInstruction := by
  intro s i hr hin hd
  have hstep := step_of_decode hr (fetch_inside hin) hd
  constructor
  · intro t ht
    refine ⟨clamp (advance t), by rw [hstep, ht], rfl, ?_, ?_, ?_, ?_, clamp_x0 _⟩
    · exact fun r => by simp
    · exact fun r => by simp
    · exact ⟨rfl, fun _ => rfl, rfl, rfl⟩
    · exact ⟨rfl, fun _ => rfl⟩
  · intro c hc
    rw [hstep, hc]

/-- Settles O13: a container that an effect changes holds a boxed pattern. -/
theorem floatWritesAreBoxed : Obligations.FloatWritesAreBoxed := by
  intro i s t h r
  obtain hsame | ⟨w, hbox⟩ := (exec_effect h).readF r
  · exact .inl hsame
  · exact .inr (hbox ▸ box_upper w)

/-- Settles O14, from the read-after-write laws of the register files. -/
theorem registerFilesReadAndWrite : Obligations.RegisterFilesReadAndWrite :=
  ⟨readX_zero, writeX_zero, readX_writeX, readF_writeF, readCsr_writeCsr, fun w _ => ⟨rfl, unbox_box w, rfl⟩⟩

end Sys2Proof.Proofs

/-! ## Family 20_memory: the buffer, the loader, the fetch, and the one condition an instruction can raise

First the facts the statements need, in the order of the definitions they speak of; then the settled statements. -/

namespace Sys2Proof.Machine

open Claims

/-! ### Windows inside and outside the buffer (R56) -/

/-- The model's test of a window, where it fails, is the claim that the window is not inside. -/
theorem inside_eq_false {s : State} {addr : Word} {w : Width} (h : ¬ Inside s addr w) :
    s.mem.inside addr w = false := Bool.eq_false_iff.2 (mt (inside_iff ..).1 h)

/-! ### Reads inside a written window (R52, R54) -/

/-- Byte k of a value after its low d bytes is byte d + k of the value. -/
theorem extractLsb'_shiftRight_bytes (v : Word) (d k : Nat) :
    (v >>> (8 * d)).extractLsb' (8 * k) 8 = v.extractLsb' (8 * (d + k)) 8 := by
  ext i hi
  simp only [BitVec.getElem_extractLsb', BitVec.getLsbD_ushiftRight]
  congr 1; omega

/-- Inside the written window the buffer reads as if the value without its first bytes had been written there. -/
theorem leValue_setBytes_subwindow (m : Memory) {a n b k : Nat} (v : Word) (hab : a ≤ b) (hbn : b + k ≤ a + n) :
    (m.setBytes a n v).leValue b k = v.toNat / 256 ^ (b - a) % 256 ^ k := by
  have hbytes : ∀ c, b ≤ c → c < b + k →
      (m.setBytes a n v).byte c = (m.setBytes b k (v >>> (8 * (b - a)))).byte c := fun c hbc hck => by
    rw [byte_setBytes, byte_setBytes, if_pos (by omega), if_pos ⟨hbc, hck⟩, extractLsb'_shiftRight_bytes]
    congr 2; omega
  rw [leValue_congr hbytes, leValue_setBytes, BitVec.toNat_ushiftRight, Nat.shiftRight_eq_div_pow, pow_mul,
    show 2 ^ 8 = 256 from rfl]

/-- A read inside a written window takes its bytes out of the value written. -/
theorem read_write_subwindow {m m' : Memory} {a b : Word} {w u : Width} {v : Word} (h : m.write a w v = some m')
    (hab : a.toNat ≤ b.toNat) (hbn : b.toNat + u.bytes ≤ a.toNat + w.bytes) :
    m'.read b u = some (BitVec.ofNat 64 (v.toNat / 256 ^ (b.toNat - a.toNat) % 256 ^ u.bytes)) := by
  obtain ⟨hin, rfl⟩ := write_eq_some h
  have hfit := (inside_iff ..).1 hin
  rw [read_inside ((inside_iff ..).2 (by rw [setBytes_size]; omega)), leValue_setBytes_subwindow m v hab hbn]

/-! ### The fetch and the decode as ends of a step (R27, R69, R341) -/

theorem fetch_outside {s : State} (h : s.mem.inside s.pc .word = false) :
    fetch s = .error (.memoryFault s.pc .word) := by simp [fetch, read_outside h]

theorem step_of_fetch_error {s : State} {c : Fault} (hr : s.halted = none) (hf : fetch s = .error c) :
    step s = .fault c := by simp only [step, hr, hf]

theorem step_of_decode_error {s : State} {w : Word32} {e : Reject} (hr : s.halted = none) (hf : fetch s = .ok w)
    (hd : decode w = .error e) : step s = .fault (.decodeError w) := by simp only [step, hr, hf, hd]

/-! ### A store and the word it leaves (R52, R209) -/

/-- A store that completes has written its window and left every other field. -/
theorem store_next {w : Width} {addr v : Word} {s t : State} (h : store w addr v s = .next t) :
    ∃ m, s.mem.write addr w v = some m ∧ t = { s with mem := m } := by
  unfold store at h; split at h
  · cases h; exact ⟨_, ‹_›, rfl⟩
  · cases h

/-- The low word of a 64-bit value read as a window of four bytes. -/
theorem setWidth_ofNat_mod_word (v : Word) :
    (BitVec.ofNat 64 (v.toNat % 256 ^ 4)).setWidth 32 = v.extractLsb' 0 32 := by
  apply BitVec.eq_of_toNat_eq
  simp only [BitVec.toNat_setWidth, BitVec.toNat_ofNat, BitVec.extractLsb'_toNat, Nat.shiftRight_zero]
  omega

/-! ### The one condition an instruction can raise (R340, R343, R344) -/

/-- The condition of a data access: MemoryFault when the window is not inside the buffer (R343). -/
def accessCondition (s : State) (addr : Word) (w : Width) : Option Fault :=
  if s.mem.inside addr w then none else some (.memoryFault addr w)

/-- The condition of an integer-to-float conversion: UnsupportedRoundingMode for 101, 110 and 111 (R344). -/
def roundingCondition (rm : RmField) (word : Word32) : Option Fault :=
  if rm == .reserved5 || rm == .reserved6 || rm == .dyn then some (.unsupportedRoundingMode word) else none

/-- The one condition the instruction raises in this state, if any. -/
def condition (i : Instr) (s : State) : Option Fault :=
  match dataAccess i s with
  | some (addr, w) => accessCondition s addr w
  | none => if badRounding i then some (.unsupportedRoundingMode (encode i)) else none

/-- An answer that raises the condition when there is one and completes when there is none. -/
def Answers : Option Fault → Result → Prop
  | some c, r => r = .fault c
  | none, r => ∃ t, r = .next t

theorem answers_next (t : State) : Answers none (.next t) := ⟨t, rfl⟩

/-- An operation on a window that completes inside the buffer and faults outside answers its access condition. -/
theorem answers_access {s : State} {addr : Word} {w : Width} {r : Result} {t : State}
    (hin : s.mem.inside addr w = true → r = .next t)
    (hout : s.mem.inside addr w = false → r = .fault (.memoryFault addr w)) :
    Answers (accessCondition s addr w) r := by
  unfold accessCondition
  cases h : s.mem.inside addr w with
  | true => exact ⟨t, hin h⟩
  | false => exact hout h

theorem loadX_answers (w : Width) (ext : Word → Word) (rd : Reg) (addr : Word) (s : State) :
    Answers (accessCondition s addr w) (loadX w ext rd addr s) :=
  answers_access (loadX_inside ext rd) (loadX_outside ext rd)

theorem loadS_answers (rd : Reg) (addr : Word) (s : State) :
    Answers (accessCondition s addr .word) (loadS rd addr s) :=
  answers_access (loadS_inside rd) (loadS_outside rd)

theorem store_answers (w : Width) (addr v : Word) (s : State) :
    Answers (accessCondition s addr w) (store w addr v s) :=
  answers_access (store_inside v) (store_outside v)

theorem storeCond_answers (w : Width) (rd : Reg) (addr v : Word) (s : State) :
    Answers (accessCondition s addr w) (storeCond w rd addr v s) :=
  answers_access (storeCond_inside rd v) (storeCond_outside rd v)

theorem amo_answers (w : Width) (L : Nat) (op : BitVec L → BitVec L → BitVec L) (rd rs1 rs2 : Reg) (s : State) :
    Answers (accessCondition s (s.readX rs1) w) (amo w L op rd rs1 rs2 s) :=
  answers_access (amo_inside op rd rs1 rs2) (amo_outside op rd rs1 rs2)

theorem cvtOfInt_answers (rm : RmField) (n : Int) (word : Word32) (rd : Reg) (s : State) :
    Answers (roundingCondition rm word) (cvtOfInt rm n word rd s) := by
  cases rm with
  | static m => exact answers_next _
  | reserved5 | reserved6 | dyn => rfl

/-- What an instruction answers is decided by its one condition. -/
theorem exec_answers (i : Instr) (s : State) : Answers (condition i s) (exec i s) := by
  cases i
  all_goals simp only [exec, condition, dataAccess, badRounding, Bool.false_eq_true, if_false]
  case lb | lh | lw | ld | lbu | lhu | lwu | lrW | lrD => exact loadX_answers _ _ _ _ s
  case flw => exact loadS_answers _ _ s
  case sb | sh | sw | sd | fsw => exact store_answers _ _ _ s
  case scW | scD => exact storeCond_answers _ _ _ _ s
  case amoswapW | amoaddW | amoxorW | amoandW | amoorW | amominW | amomaxW | amominuW | amomaxuW | amoswapD |
      amoaddD | amoxorD | amoandD | amoorD | amominD | amomaxD | amominuD | amomaxuD => exact amo_answers _ _ _ _ _ _ s
  case fcvtSW | fcvtSWu | fcvtSL | fcvtSLu => exact cvtOfInt_answers _ _ _ _ s
  all_goals exact answers_next _

/-- The conversions that carry a rounding mode access no memory. -/
theorem dataAccess_of_badRounding {i : Instr} (s : State) (h : badRounding i = true) : dataAccess i s = none := by
  unfold badRounding at h
  split at h
  exacts [rfl, rfl, rfl, rfl, absurd h Bool.false_ne_true]

theorem exec_of_condition {i : Instr} {s : State} {c : Fault} (h : condition i s = some c) : exec i s = .fault c := by
  have := exec_answers i s
  rwa [h] at this

theorem exec_of_no_condition {i : Instr} {s : State} (h : condition i s = none) : ∃ t, exec i s = .next t := by
  have := exec_answers i s
  rwa [h] at this

theorem exec_of_outside {i : Instr} {s : State} {addr : Word} {w : Width} (ha : dataAccess i s = some (addr, w))
    (h : s.mem.inside addr w = false) : exec i s = .fault (.memoryFault addr w) :=
  exec_of_condition (by simp [condition, accessCondition, ha, h])

theorem exec_of_badRounding {i : Instr} (s : State) (h : badRounding i = true) :
    exec i s = .fault (.unsupportedRoundingMode (encode i)) :=
  exec_of_condition (by simp [condition, dataAccess_of_badRounding s h, h])

theorem condition_eq_none {i : Instr} {s : State} (hr : badRounding i = false)
    (hin : ∀ addr w, dataAccess i s = some (addr, w) → Inside s addr w) : condition i s = none := by
  unfold condition
  split
  · rename_i addr w ha
    exact if_pos ((inside_iff ..).2 (hin addr w ha))
  · simp [hr]

end Sys2Proof.Machine

/-! ### The statements -/

namespace Sys2Proof.Proofs

open Machine Claims

/-- Settles O7: the answer of every instruction is decided by its one condition, and no window that wraps or lies in the
top 2048 addresses is inside a buffer. -/
theorem execRaisesOnlyItsCondition : Obligations.ExecRaisesOnlyItsCondition := fun _ s =>
  ⟨fun _ _ ha hout => exec_of_outside ha (inside_eq_false hout),
    fun _ _ ha hwrap => exec_of_outside ha (outside_of_wrap s.mem hwrap),
    fun _ w ha htop => exec_of_outside ha (outside_of_top s.mem w htop),
    exec_of_badRounding s,
    fun hr hin => exec_of_no_condition (condition_eq_none hr hin)⟩

/-- Settles O5: a fetch that fails and a word without a row each end the step. -/
theorem fetchAndDecodeStops : Obligations.FetchAndDecodeStops := fun s hr =>
  ⟨fun hout => step_of_fetch_error hr (fetch_outside (inside_eq_false hout)),
    fun hwrap => step_of_fetch_error hr (fetch_outside (outside_of_wrap s.mem hwrap)),
    fun hin ⟨_, hd⟩ => step_of_decode_error hr (fetch_inside hin) hd⟩

/-- Settles O3: the loader's copy, byte by byte, and the reset table. -/
theorem bootLoadsTheImage : Obligations.BootLoadsTheImage := by
  intro p image
  refine ⟨fun i => ?_, copyIn_size p.mem 0 image, rfl, rfl, fun hwf hfit => copyIn_wf (by omega) hwf⟩
  have hbyte : (boot p image).mem.byte i = (image[i]?).getD (p.mem.byte i) :=
    (byte_copyIn p.mem 0 image i).trans (if_pos i.zero_le)
  rw [hbyte]
  split
  · next hi => rw [List.getElem?_eq_getElem hi, Option.getD_some]
  · next hi => rw [List.getElem?_eq_none (by omega), Option.getD_none]

/-- Settles O15, from the read of a window and the byte-by-byte law of a write. -/
theorem memoryIsLittleEndian : Obligations.MemoryIsLittleEndian := by
  intro m addr w v h
  have hin := (inside_iff m addr w).2 h
  exact ⟨leValue_eq_windowValue m addr.toNat w.bytes ▸ read_inside hin, _, write_inside v hin,
    setBytes_size m addr.toNat w.bytes v, byte_setBytes m addr.toNat w.bytes v⟩

/-- Settles O16: a window inside the written one takes its bytes out of the value. -/
theorem mixedWidthReads : Obligations.MixedWidthReads := fun _ _ _ _ _ _ _ => read_write_subwindow

/-- Settles O17, from the laws of the sparse map. -/
theorem memoryStaysCanonical : Obligations.MemoryStaysCanonical :=
  ⟨fun _ _ _ _ _ hm h => write_wf h hm, fun _ _ => Memory.ext_byte⟩

/-- Settles O18: the next fetch reads the window that the store has written. -/
theorem storedWordIsFetchedNext : Obligations.StoredWordIsFetchedNext := by
  intro s t rs1 rs2 imm haddr h
  simp only [exec, execSw, effAddr, haddr] at h
  obtain ⟨m, hw, rfl⟩ := store_next h
  simp only [fetch, advance_mem, advance_pc, read_write_same hw]
  exact congrArg Except.ok (setWidth_ofNat_mod_word (s.readX rs2))

end Sys2Proof.Proofs

/-! ## Family 30_encoding: the encoder and the decoder undo each other, and the words of no row

Every instruction finds its row; every row's instruction encodes back to the row's pattern and the word's other bits; a
word's acceptance is a condition on its fields. Then the settled statements. -/

namespace Sys2Proof.Laws

/-- Every instruction has a row of the table that accepts its encodings and reads it back. -/
theorem encodeRow (i : Instr) : EncodeRow.Statement i := by
  cases i
  exacts [EncodeRow.lui .., EncodeRow.auipc .., EncodeRow.jal .., EncodeRow.jalr .., EncodeRow.beq ..,
    EncodeRow.bne .., EncodeRow.blt .., EncodeRow.bge .., EncodeRow.bltu .., EncodeRow.bgeu .., EncodeRow.lb ..,
    EncodeRow.lh .., EncodeRow.lw .., EncodeRow.ld .., EncodeRow.lbu .., EncodeRow.lhu .., EncodeRow.lwu ..,
    EncodeRow.sb .., EncodeRow.sh .., EncodeRow.sw .., EncodeRow.sd .., EncodeRow.addi .., EncodeRow.slti ..,
    EncodeRow.sltiu .., EncodeRow.xori .., EncodeRow.ori .., EncodeRow.andi .., EncodeRow.slli .., EncodeRow.srli ..,
    EncodeRow.srai .., EncodeRow.add .., EncodeRow.sub .., EncodeRow.sll .., EncodeRow.slt .., EncodeRow.sltu ..,
    EncodeRow.xor .., EncodeRow.srl .., EncodeRow.sra .., EncodeRow.or .., EncodeRow.and .., EncodeRow.addiw ..,
    EncodeRow.slliw .., EncodeRow.srliw .., EncodeRow.sraiw .., EncodeRow.addw .., EncodeRow.subw ..,
    EncodeRow.sllw .., EncodeRow.srlw .., EncodeRow.sraw .., EncodeRow.fence .., EncodeRow.fenceI ..,
    EncodeRow.csrrw .., EncodeRow.csrrs .., EncodeRow.csrrc .., EncodeRow.csrrwi .., EncodeRow.csrrsi ..,
    EncodeRow.csrrci .., EncodeRow.mul .., EncodeRow.mulh .., EncodeRow.mulhsu .., EncodeRow.mulhu ..,
    EncodeRow.div .., EncodeRow.divu .., EncodeRow.rem .., EncodeRow.remu .., EncodeRow.mulw .., EncodeRow.divw ..,
    EncodeRow.divuw .., EncodeRow.remw .., EncodeRow.remuw .., EncodeRow.lrW .., EncodeRow.scW ..,
    EncodeRow.amoswapW .., EncodeRow.amoaddW .., EncodeRow.amoxorW .., EncodeRow.amoandW .., EncodeRow.amoorW ..,
    EncodeRow.amominW .., EncodeRow.amomaxW .., EncodeRow.amominuW .., EncodeRow.amomaxuW .., EncodeRow.lrD ..,
    EncodeRow.scD .., EncodeRow.amoswapD .., EncodeRow.amoaddD .., EncodeRow.amoxorD .., EncodeRow.amoandD ..,
    EncodeRow.amoorD .., EncodeRow.amominD .., EncodeRow.amomaxD .., EncodeRow.amominuD .., EncodeRow.amomaxuD ..,
    EncodeRow.flw .., EncodeRow.fsw .., EncodeRow.fmaddS .., EncodeRow.fmsubS .., EncodeRow.fnmsubS ..,
    EncodeRow.fnmaddS .., EncodeRow.faddS .., EncodeRow.fsubS .., EncodeRow.fmulS .., EncodeRow.fdivS ..,
    EncodeRow.fsqrtS .., EncodeRow.fsgnjS .., EncodeRow.fsgnjnS .., EncodeRow.fsgnjxS .., EncodeRow.fminS ..,
    EncodeRow.fmaxS .., EncodeRow.fcvtWS .., EncodeRow.fcvtWuS .., EncodeRow.fcvtLS .., EncodeRow.fcvtLuS ..,
    EncodeRow.fmvXW .., EncodeRow.feqS .., EncodeRow.fltS .., EncodeRow.fleS .., EncodeRow.fclassS ..,
    EncodeRow.fcvtSW .., EncodeRow.fcvtSWu .., EncodeRow.fcvtSL .., EncodeRow.fcvtSLu .., EncodeRow.fmvWX ..]

end Sys2Proof.Laws

namespace Sys2Proof

open Claims

/-! ### A word is the encoding of its own fields (R83 to R89) -/

theorem encR_eq_iff {f7 : BitVec 7} {rs2 rs1 : BitVec 5} {f3 : BitVec 3} {rd : BitVec 5} {op : BitVec 7} {u : Word32} :
    encR f7 rs2 rs1 f3 rd op = u ↔ f7 = u.extractLsb' 25 7 ∧ rs2 = u.extractLsb' 20 5 ∧ rs1 = u.extractLsb' 15 5 ∧
      f3 = u.extractLsb' 12 3 ∧ rd = u.extractLsb' 7 5 ∧ op = u.extractLsb' 0 7 :=
  ⟨by rintro rfl; simp, by rintro ⟨rfl, rfl, rfl, rfl, rfl, rfl⟩; exact encR_self u⟩

theorem encR4_eq_iff {rs3 : BitVec 5} {f2 : BitVec 2} {rs2 rs1 : BitVec 5} {rm : BitVec 3} {rd : BitVec 5}
    {op : BitVec 7} {u : Word32} :
    encR4 rs3 f2 rs2 rs1 rm rd op = u ↔ rs3 = u.extractLsb' 27 5 ∧ f2 = u.extractLsb' 25 2 ∧ rs2 = u.extractLsb' 20 5 ∧
      rs1 = u.extractLsb' 15 5 ∧ rm = u.extractLsb' 12 3 ∧ rd = u.extractLsb' 7 5 ∧ op = u.extractLsb' 0 7 :=
  ⟨by rintro rfl; simp, by rintro ⟨rfl, rfl, rfl, rfl, rfl, rfl, rfl⟩; exact encR4_self u⟩

theorem encI_eq_iff {imm : BitVec 12} {rs1 : BitVec 5} {f3 : BitVec 3} {rd : BitVec 5} {op : BitVec 7} {u : Word32} :
    encI imm rs1 f3 rd op = u ↔ imm = u.extractLsb' 20 12 ∧ rs1 = u.extractLsb' 15 5 ∧ f3 = u.extractLsb' 12 3 ∧
      rd = u.extractLsb' 7 5 ∧ op = u.extractLsb' 0 7 :=
  ⟨by rintro rfl; simp, by rintro ⟨rfl, rfl, rfl, rfl, rfl⟩; exact encI_self u⟩

theorem encS_eq_iff {imm : BitVec 12} {rs2 rs1 : BitVec 5} {f3 : BitVec 3} {op : BitVec 7} {u : Word32} :
    encS imm rs2 rs1 f3 op = u ↔ imm = (u.extractLsb' 25 7 ++ u.extractLsb' 7 5 : BitVec (7 + 5)) ∧
      rs2 = u.extractLsb' 20 5 ∧ rs1 = u.extractLsb' 15 5 ∧ f3 = u.extractLsb' 12 3 ∧ op = u.extractLsb' 0 7 :=
  ⟨by rintro rfl; simp [join_S], by rintro ⟨rfl, rfl, rfl, rfl, rfl⟩; exact encS_self u⟩

theorem encB_eq_iff {k : BitVec 12} {rs2 rs1 : BitVec 5} {f3 : BitVec 3} {op : BitVec 7} {u : Word32} :
    encB k rs2 rs1 f3 op = u ↔
      k = (u.extractLsb' 31 1 ++ u.extractLsb' 7 1 ++ u.extractLsb' 25 6 ++ u.extractLsb' 8 4 :
        BitVec (1 + 1 + 6 + 4)) ∧
      rs2 = u.extractLsb' 20 5 ∧ rs1 = u.extractLsb' 15 5 ∧ f3 = u.extractLsb' 12 3 ∧ op = u.extractLsb' 0 7 :=
  ⟨by rintro rfl; simp [join_B], by rintro ⟨rfl, rfl, rfl, rfl, rfl⟩; exact encB_self u⟩

theorem encU_eq_iff {imm : BitVec 20} {rd : BitVec 5} {op : BitVec 7} {u : Word32} :
    encU imm rd op = u ↔ imm = u.extractLsb' 12 20 ∧ rd = u.extractLsb' 7 5 ∧ op = u.extractLsb' 0 7 :=
  ⟨by rintro rfl; simp, by rintro ⟨rfl, rfl, rfl⟩; exact encU_self u⟩

theorem and_of_eq_allOnes {n : Nat} {m : BitVec n} (b : BitVec n) (h : m = BitVec.allOnes n) : b &&& m = b := by
  rw [h, BitVec.and_allOnes]

/-- The word of JAL. No word holds bit 0 of its offset (R94), so the J format has no equivalence like the others. -/
theorem encJ_operands (w : Word32) :
    encJ (w.extractLsb' 31 1 ++ w.extractLsb' 12 8 ++ w.extractLsb' 20 1 ++ w.extractLsb' 21 10 ++ 0#1 :
      BitVec (1 + 8 + 1 + 10 + 1)) (w.extractLsb' 7 5) 0b1101111#7 = 0x0000006F#32 ||| (w &&& ~~~0x0000007F#32) := by
  simpa [BitVec.extractLsb'_or, BitVec.extractLsb'_and, and_of_eq_allOnes] using
    encJ_self (0x0000006F#32 ||| (w &&& ~~~0x0000007F#32))

theorem encI_shift_eq_iff {top shamt : BitVec 6} {rs1 : BitVec 5} {f3 : BitVec 3} {rd : BitVec 5} {op : BitVec 7}
    {u : Word32} :
    encI (top ++ shamt : BitVec (6 + 6)) rs1 f3 rd op = u ↔ top = u.extractLsb' 26 6 ∧ shamt = u.extractLsb' 20 6 ∧
      rs1 = u.extractLsb' 15 5 ∧ f3 = u.extractLsb' 12 3 ∧ rd = u.extractLsb' 7 5 ∧ op = u.extractLsb' 0 7 := by
  refine ⟨by rintro rfl; simp [append_low_6_6, append_high_6_6], ?_⟩
  rintro ⟨rfl, rfl, rfl, rfl, rfl, rfl⟩
  rw [BitVec.extractLsb'_append_extractLsb'_eq_extractLsb' (by rfl)]
  exact encI_self u

/-! ### Encoding what a row has decoded -/

theorem reg_bits_ofBits (b : BitVec 5) : (Reg.ofBits b).bits = b := rfl

theorem rm_bits_ofBits : ∀ b : BitVec 3, (RmField.ofBits b).bits = b := by decide

/-- What the row makes of a word is encoded as the row's pattern and the word's bits outside the row's mask, its ignored
bits apart. -/
def Row.Restores (r : Row) (w : Word32) : Prop :=
  encode (r.build w) = (r.pat ||| (w &&& ~~~r.mask)) &&& ~~~ignoredBits (r.build w)

/-- Row by row: the encoder's format on the left, and on the right a word with the row's fields where the row fixes them
and the fields of `w` elsewhere. -/
theorem rows_restore (w : Word32) : ∀ r ∈ rows, r.Restores w := by
  simp only [rows, rowsControl, rowsLoadStore, rowsOpImm, rowsOp, rowsMulDiv, rowsCsrFence, rowsAtomic, rowsFloat,
    List.forall_mem_append, List.forall_mem_cons]
  dsimp only [Row.Restores, encode, ignoredBits, encAmo, rmIgnored, rdOf, rs1Of, rs2Of, rs3Of, rmOf, csrOf, uimmOf,
    reg_bits_ofBits, immI, immS, immB, immU, immJ, shamt6, shamt5]
  simp only [encI_shift_eq_iff]
  simp [encR_eq_iff, encR4_eq_iff, encI_eq_iff, encS_eq_iff, encB_eq_iff, encU_eq_iff, encJ_operands, rm_bits_ofBits,
    setWidth_signExtend_self, BitVec.extractLsb'_or, BitVec.extractLsb'_and, BitVec.and_or_distrib_right,
    BitVec.and_assoc, and_of_eq_allOnes]

theorem accepts_iff {r : Row} {w : Word32} : r.accepts w = true ↔ w &&& r.mask = r.pat := beq_iff_eq

theorem encode_build {r : Row} (hr : r ∈ rows) {w : Word32} (ha : r.accepts w = true) :
    encode (r.build w) = w &&& ~~~ignoredBits (r.build w) :=
  calc encode (r.build w) = ((w &&& r.mask) ||| (w &&& ~~~r.mask)) &&& ~~~ignoredBits (r.build w) := by
        rw [rows_restore w r hr, accepts_iff.1 ha]
    _ = w &&& ~~~ignoredBits (r.build w) := by
        rw [← BitVec.and_or_distrib_left, BitVec.or_not_self, BitVec.and_allOnes]

/-! ### A masked word is its fields (R114) -/

theorem field_of_masked {w m p : Word32} {pos n : Nat} (hm : m.extractLsb' pos n = BitVec.allOnes n)
    (h : w &&& m = p) : bits w pos n = p.extractLsb' pos n := by
  rw [← h, BitVec.extractLsb'_and, and_of_eq_allOnes _ hm, bits]

theorem masked_0000007F_iff {w p : Word32} (hp : p &&& 0x0000007F#32 = p) :
    w &&& 0x0000007F#32 = p ↔ bits w 0 7 = p.extractLsb' 0 7 :=
  ⟨fun h => field_of_masked (by decide) h,
    fun h0 => .trans (by rw [mask_0000007F w, mask_0000007F p, ← h0]; rfl) hp⟩

theorem masked_0000707F_iff {w p : Word32} (hp : p &&& 0x0000707F#32 = p) :
    w &&& 0x0000707F#32 = p ↔ bits w 0 7 = p.extractLsb' 0 7 ∧ bits w 12 3 = p.extractLsb' 12 3 :=
  ⟨fun h => ⟨field_of_masked (by decide) h, field_of_masked (by decide) h⟩,
    fun ⟨h0, h12⟩ => .trans (by rw [mask_0000707F w, mask_0000707F p, ← h0, ← h12]; rfl) hp⟩

theorem masked_FC00707F_iff {w p : Word32} (hp : p &&& 0xFC00707F#32 = p) :
    w &&& 0xFC00707F#32 = p ↔ bits w 0 7 = p.extractLsb' 0 7 ∧ bits w 12 3 = p.extractLsb' 12 3 ∧
      bits w 26 6 = p.extractLsb' 26 6 :=
  ⟨fun h => ⟨field_of_masked (by decide) h, field_of_masked (by decide) h, field_of_masked (by decide) h⟩,
    fun ⟨h0, h12, h26⟩ => .trans (by rw [mask_FC00707F w, mask_FC00707F p, ← h0, ← h12, ← h26]; rfl) hp⟩

theorem masked_FE00707F_iff {w p : Word32} (hp : p &&& 0xFE00707F#32 = p) :
    w &&& 0xFE00707F#32 = p ↔ bits w 0 7 = p.extractLsb' 0 7 ∧ bits w 12 3 = p.extractLsb' 12 3 ∧
      bits w 25 7 = p.extractLsb' 25 7 :=
  ⟨fun h => ⟨field_of_masked (by decide) h, field_of_masked (by decide) h, field_of_masked (by decide) h⟩,
    fun ⟨h0, h12, h25⟩ => .trans (by rw [mask_FE00707F w, mask_FE00707F p, ← h0, ← h12, ← h25]; rfl) hp⟩

theorem masked_FE00007F_iff {w p : Word32} (hp : p &&& 0xFE00007F#32 = p) :
    w &&& 0xFE00007F#32 = p ↔ bits w 0 7 = p.extractLsb' 0 7 ∧ bits w 25 7 = p.extractLsb' 25 7 :=
  ⟨fun h => ⟨field_of_masked (by decide) h, field_of_masked (by decide) h⟩,
    fun ⟨h0, h25⟩ => .trans (by rw [mask_FE00007F w, mask_FE00007F p, ← h0, ← h25]; rfl) hp⟩

theorem masked_FFF0007F_iff {w p : Word32} (hp : p &&& 0xFFF0007F#32 = p) :
    w &&& 0xFFF0007F#32 = p ↔ bits w 0 7 = p.extractLsb' 0 7 ∧ bits w 20 5 = p.extractLsb' 20 5 ∧
      bits w 25 7 = p.extractLsb' 25 7 :=
  ⟨fun h => ⟨field_of_masked (by decide) h, field_of_masked (by decide) h, field_of_masked (by decide) h⟩,
    fun ⟨h0, h20, h25⟩ => .trans (by rw [mask_FFF0007F w, mask_FFF0007F p, ← h0, ← h20, ← h25]; rfl) hp⟩

theorem masked_FFF0707F_iff {w p : Word32} (hp : p &&& 0xFFF0707F#32 = p) :
    w &&& 0xFFF0707F#32 = p ↔ bits w 0 7 = p.extractLsb' 0 7 ∧ bits w 12 3 = p.extractLsb' 12 3 ∧
      bits w 20 5 = p.extractLsb' 20 5 ∧ bits w 25 7 = p.extractLsb' 25 7 :=
  ⟨fun h => ⟨field_of_masked (by decide) h, field_of_masked (by decide) h, field_of_masked (by decide) h,
      field_of_masked (by decide) h⟩,
    fun ⟨h0, h12, h20, h25⟩ => .trans (by rw [mask_FFF0707F w, mask_FFF0707F p, ← h0, ← h12, ← h20, ← h25]; rfl) hp⟩

theorem masked_F800707F_iff {w p : Word32} (hp : p &&& 0xF800707F#32 = p) :
    w &&& 0xF800707F#32 = p ↔ bits w 0 7 = p.extractLsb' 0 7 ∧ bits w 12 3 = p.extractLsb' 12 3 ∧
      bits w 27 5 = p.extractLsb' 27 5 :=
  ⟨fun h => ⟨field_of_masked (by decide) h, field_of_masked (by decide) h, field_of_masked (by decide) h⟩,
    fun ⟨h0, h12, h27⟩ => .trans (by rw [mask_F800707F w, mask_F800707F p, ← h0, ← h12, ← h27]; rfl) hp⟩

theorem masked_F9F0707F_iff {w p : Word32} (hp : p &&& 0xF9F0707F#32 = p) :
    w &&& 0xF9F0707F#32 = p ↔ bits w 0 7 = p.extractLsb' 0 7 ∧ bits w 12 3 = p.extractLsb' 12 3 ∧
      bits w 20 5 = p.extractLsb' 20 5 ∧ bits w 27 5 = p.extractLsb' 27 5 :=
  ⟨fun h => ⟨field_of_masked (by decide) h, field_of_masked (by decide) h, field_of_masked (by decide) h,
      field_of_masked (by decide) h⟩,
    fun ⟨h0, h12, h20, h27⟩ => .trans (by rw [mask_F9F0707F w, mask_F9F0707F p, ← h0, ← h12, ← h20, ← h27]; rfl) hp⟩

theorem masked_0600007F_iff {w p : Word32} (hp : p &&& 0x0600007F#32 = p) :
    w &&& 0x0600007F#32 = p ↔ bits w 0 7 = p.extractLsb' 0 7 ∧ bits w 25 2 = p.extractLsb' 25 2 :=
  ⟨fun h => ⟨field_of_masked (by decide) h, field_of_masked (by decide) h⟩,
    fun ⟨h0, h25⟩ => .trans (by rw [mask_0600007F w, mask_0600007F p, ← h0, ← h25]; rfl) hp⟩

/-! ### The cells that each part of the table fills (R97 to R113) -/

/-- Some row of the list accepts the word. -/
def Accepted (l : List Row) (w : Word32) : Prop := ∃ r ∈ l, r.accepts w = true

@[simp] theorem accepted_nil {w : Word32} : Accepted [] w ↔ False := by simp [Accepted]

@[simp] theorem accepted_cons {r : Row} {l : List Row} {w : Word32} :
    Accepted (r :: l) w ↔ w &&& r.mask = r.pat ∨ Accepted l w := by
  simp only [Accepted, List.exists_mem_cons_iff, accepts_iff]

@[simp] theorem accepted_append {l l' : List Row} {w : Word32} :
    Accepted (l ++ l') w ↔ Accepted l w ∨ Accepted l' w := by
  simp only [Accepted, List.mem_append, or_and_right, exists_or]

theorem undefined_iff_not_accepted {w : Word32} : Undefined w ↔ ¬ Accepted rows w := by
  refine ⟨fun ⟨e, he⟩ ⟨r, hr, ha⟩ => ?_, fun h => decode_error_of_no_row fun r hr => ?_⟩
  · rw [decode_of_row hr ha] at he
    cases he
  · exact Bool.eq_false_iff.2 fun ha => h ⟨r, hr, ha⟩

theorem funct3_cases : ∀ b : BitVec 3, b = 0b000#3 ∨ b = 0b001#3 ∨ b = 0b010#3 ∨ b = 0b011#3 ∨ b = 0b100#3 ∨
    b = 0b101#3 ∨ b = 0b110#3 ∨ b = 0b111#3 := by decide

theorem accepted_rowsControl (w : Word32) : Accepted rowsControl w ↔
    bits w 0 7 = 0x37#7 ∨ bits w 0 7 = 0x17#7 ∨ bits w 0 7 = 0x6F#7 ∨ (bits w 0 7 = 0x67#7 ∧ bits w 12 3 = 0b000#3) ∨
    (bits w 0 7 = 0x63#7 ∧ bits w 12 3 ≠ 0b010#3 ∧ bits w 12 3 ≠ 0b011#3) := by
  simp (disch := decide) only [rowsControl, accepted_cons, accepted_nil, or_false, masked_0000007F_iff,
    masked_0000707F_iff]
  rcases funct3_cases (bits w 12 3) with h | h | h | h | h | h | h | h <;> simp [h]

theorem bits_14_1 (w : Word32) : bits w 14 1 = (bits w 12 3).extractLsb' 2 1 := by
  ext i hi
  simp [bits, show i = 0 by omega]

theorem accepted_rowsLoadStore (w : Word32) : Accepted rowsLoadStore w ↔
    (bits w 0 7 = 0x03#7 ∧ bits w 12 3 ≠ 0b111#3) ∨ (bits w 0 7 = 0x23#7 ∧ bits w 14 1 = 0#1) := by
  simp (disch := decide) only [rowsLoadStore, accepted_cons, accepted_nil, or_false, masked_0000707F_iff, bits_14_1]
  rcases funct3_cases (bits w 12 3) with h | h | h | h | h | h | h | h <;> simp [h]

theorem accepted_rowsOpImm (w : Word32) : Accepted rowsOpImm w ↔
    (bits w 0 7 = 0x13#7 ∧ ((bits w 12 3 ≠ 0b001#3 ∧ bits w 12 3 ≠ 0b101#3) ∨
      (bits w 12 3 = 0b001#3 ∧ bits w 26 6 = 0b000000#6) ∨
      (bits w 12 3 = 0b101#3 ∧ (bits w 26 6 = 0b000000#6 ∨ bits w 26 6 = 0b010000#6)))) ∨
    (bits w 0 7 = 0x1B#7 ∧ (bits w 12 3 = 0b000#3 ∨ (bits w 12 3 = 0b001#3 ∧ bits w 25 7 = 0b0000000#7) ∨
      (bits w 12 3 = 0b101#3 ∧ (bits w 25 7 = 0b0000000#7 ∨ bits w 25 7 = 0b0100000#7)))) := by
  simp (disch := decide) only [rowsOpImm, accepted_cons, accepted_nil, or_false, masked_0000707F_iff,
    masked_FC00707F_iff, masked_FE00707F_iff]
  rcases funct3_cases (bits w 12 3) with h | h | h | h | h | h | h | h <;> simp [h, and_or_left, or_assoc]

theorem accepted_rowsOp (w : Word32) : Accepted rowsOp w ↔
    (bits w 0 7 = 0x33#7 ∧ (bits w 25 7 = 0b0000000#7 ∨
      (bits w 25 7 = 0b0100000#7 ∧ (bits w 12 3 = 0b000#3 ∨ bits w 12 3 = 0b101#3)))) ∨
    (bits w 0 7 = 0x3B#7 ∧
      ((bits w 25 7 = 0b0000000#7 ∧ (bits w 12 3 = 0b000#3 ∨ bits w 12 3 = 0b001#3 ∨ bits w 12 3 = 0b101#3)) ∨
      (bits w 25 7 = 0b0100000#7 ∧ (bits w 12 3 = 0b000#3 ∨ bits w 12 3 = 0b101#3)))) := by
  simp (disch := decide) only [rowsOp, accepted_cons, accepted_nil, or_false, masked_FE00707F_iff]
  rcases funct3_cases (bits w 12 3) with h | h | h | h | h | h | h | h <;> simp [h, and_or_left, or_assoc]

theorem accepted_rowsMulDiv (w : Word32) : Accepted rowsMulDiv w ↔
    (bits w 0 7 = 0x33#7 ∧ bits w 25 7 = 0b0000001#7) ∨
    (bits w 0 7 = 0x3B#7 ∧ bits w 25 7 = 0b0000001#7 ∧ (bits w 12 3 = 0b000#3 ∨ bits w 12 3 = 0b100#3 ∨
      bits w 12 3 = 0b101#3 ∨ bits w 12 3 = 0b110#3 ∨ bits w 12 3 = 0b111#3)) := by
  simp (disch := decide) only [rowsMulDiv, accepted_cons, accepted_nil, or_false, masked_FE00707F_iff]
  rcases funct3_cases (bits w 12 3) with h | h | h | h | h | h | h | h <;> simp [h]

theorem accepted_rowsCsrFence (w : Word32) : Accepted rowsCsrFence w ↔
    (bits w 0 7 = 0x0F#7 ∧ (bits w 12 3 = 0b000#3 ∨ bits w 12 3 = 0b001#3)) ∨
    (bits w 0 7 = 0x73#7 ∧ bits w 12 3 ≠ 0b000#3 ∧ bits w 12 3 ≠ 0b100#3) := by
  simp (disch := decide) only [rowsCsrFence, accepted_cons, accepted_nil, or_false, masked_0000707F_iff]
  rcases funct3_cases (bits w 12 3) with h | h | h | h | h | h | h | h <;> simp [h]

theorem accepted_rowsAtomic (w : Word32) : Accepted rowsAtomic w ↔
    bits w 0 7 = 0x2F#7 ∧ (bits w 12 3 = 0b010#3 ∨ bits w 12 3 = 0b011#3) ∧
      ((bits w 27 5 = 0b00010#5 ∧ bits w 20 5 = 0b00000#5) ∨
        bits w 27 5 ∈ [0b00011#5, 0b00001#5, 0b00000#5, 0b00100#5, 0b01100#5, 0b01000#5, 0b10000#5, 0b10100#5,
          0b11000#5, 0b11100#5]) := by
  simp (disch := decide) only [rowsAtomic, accepted_cons, accepted_nil, or_false, masked_F800707F_iff,
    masked_F9F0707F_iff]
  rcases funct3_cases (bits w 12 3) with h | h | h | h | h | h | h | h <;> simp [h, and_or_left, and_comm]

theorem accepted_rowsFloat (w : Word32) : Accepted rowsFloat w ↔
    ((bits w 0 7 = 0x07#7 ∨ bits w 0 7 = 0x27#7) ∧ bits w 12 3 = 0b010#3) ∨
    (bits w 0 7 ∈ [0x43#7, 0x47#7, 0x4B#7, 0x4F#7] ∧ bits w 25 2 = 0b00#2) ∨
    (bits w 0 7 = 0x53#7 ∧ (bits w 25 7 ∈ [0b0000000#7, 0b0000100#7, 0b0001000#7, 0b0001100#7] ∨
      (bits w 20 5 = 0b00000#5 ∧ bits w 25 7 = 0b0101100#7) ∨
      (bits w 12 3 ∈ [0b000#3, 0b001#3, 0b010#3] ∧ bits w 25 7 = 0b0010000#7) ∨
      (bits w 12 3 ∈ [0b000#3, 0b001#3] ∧ bits w 25 7 = 0b0010100#7) ∨
      (bits w 20 5 ∈ [0b00000#5, 0b00001#5, 0b00010#5, 0b00011#5] ∧ bits w 25 7 = 0b1100000#7) ∨
      (bits w 12 3 = 0b000#3 ∧ bits w 20 5 = 0b00000#5 ∧ bits w 25 7 = 0b1110000#7) ∨
      (bits w 12 3 ∈ [0b000#3, 0b001#3, 0b010#3] ∧ bits w 25 7 = 0b1010000#7) ∨
      (bits w 12 3 = 0b001#3 ∧ bits w 20 5 = 0b00000#5 ∧ bits w 25 7 = 0b1110000#7) ∨
      (bits w 20 5 ∈ [0b00000#5, 0b00001#5, 0b00010#5, 0b00011#5] ∧ bits w 25 7 = 0b1101000#7) ∨
      (bits w 12 3 = 0b000#3 ∧ bits w 20 5 = 0b00000#5 ∧ bits w 25 7 = 0b1111000#7))) := by
  simp (disch := decide) only [rowsFloat, accepted_cons, accepted_nil, or_false, masked_0000707F_iff,
    masked_0600007F_iff, masked_FE00707F_iff, masked_FE00007F_iff, masked_FFF0707F_iff, masked_FFF0007F_iff]
  rcases funct3_cases (bits w 12 3) with h | h | h | h | h | h | h | h <;>
    simp [h, and_or_left, or_and_right, or_assoc]

/-- The lists of rows together fill the cells of `Claims.defined`, opcode by opcode. -/
theorem accepted_rows (w : Word32) : Accepted rows w ↔ defined w = true := by
  simp only [rows, accepted_append, accepted_rowsControl, accepted_rowsLoadStore, accepted_rowsOpImm, accepted_rowsOp,
    accepted_rowsMulDiv, accepted_rowsCsrFence, accepted_rowsAtomic, accepted_rowsFloat, defined]
  split
  -- OP-IMM and OP-IMM-32: the conditional on funct3.
  case h_10 hop | h_11 hop =>
    rcases funct3_cases (bits w 12 3) with h | h | h | h | h | h | h | h <;> simp [hop, h]
  -- OP and OP-32: their rows stand in two parts of the table.
  case h_12 hop | h_13 hop =>
    simp only [hop]
    grind
  -- OP-FP: the cells by funct7.
  case h_21 hop =>
    simp only [hop]
    split <;> simp_all [or_assoc, or_and_right, and_comm]
  -- No opcode of R97.
  case h_22 => simp_all
  all_goals simp [*]

end Sys2Proof

/-! ### The statements -/

namespace Sys2Proof.Proofs

open Machine Claims

/-- Settles O19: the row of an instruction reads its encoding back; the row that decodes a word restores it. -/
theorem decodeInvertsEncode : Obligations.DecodeInvertsEncode := by
  refine ⟨fun i v hw => ?_, fun w i h => ⟨decode_wf h, ?_⟩⟩
  · obtain ⟨r, hr, hrow⟩ := Laws.encodeRow i
    obtain ⟨haccepts, hbuild⟩ := hrow v
    rw [decode_of_row hr haccepts, hbuild hw]
  · obtain ⟨r, hr, ha, rfl⟩ := row_of_decode h
    exact encode_build hr ha

/-- Settles O21: the decoder rejects a word when no row accepts it, and the rows fill the cells of `defined`. -/
theorem undefinedWordsAreRejected : Obligations.UndefinedWordsAreRejected := fun w => by
  rw [undefined_iff_not_accepted, accepted_rows, Bool.not_eq_true]

end Sys2Proof.Proofs

/-! ## Family 40_integer_computational: results in exact integers, encodings and frames

First the decoding of each word format and the one frame that every integer result has; then the arithmetic of the
results; then the settled statements. -/

namespace Sys2Proof

open Claims

/-! ### Every word of a format is its row's instruction (R83 to R88, R114)

A row of the table is named by its place; its mask, its pattern and what it builds are then read off by computation. -/

theorem rForm_of_row {r : Row} {op : BitVec 7} {f3 : BitVec 3} {f7 : BitVec 7} {mk : Reg → Reg → Reg → Instr}
    (hr : r ∈ rows) (hm : r.mask = 0xFE00707F#32 := by rfl)
    (hp : r.pat = place 0 op ||| place 12 f3 ||| place 25 f7 := by decide)
    (hb : ∀ w, r.build w = mk (rdOf w) (rs1Of w) (rs2Of w) := by intro _; rfl) : RForm op f3 f7 mk :=
  fun w h0 h12 h25 => (decode_of_FE00707F hr hm hp h0 h12 h25).trans (congrArg Except.ok (hb w))

theorem iForm_of_row {r : Row} {op : BitVec 7} {f3 : BitVec 3} {mk : Reg → Reg → Word → Instr}
    (hr : r ∈ rows) (hm : r.mask = 0x0000707F#32 := by rfl)
    (hp : r.pat = place 0 op ||| place 12 f3 := by decide)
    (hb : ∀ w, r.build w = mk (rdOf w) (rs1Of w) (immI w) := by intro _; rfl) : IForm op f3 mk :=
  fun w h0 h12 => (decode_of_0000707F hr hm hp h0 h12).trans (congrArg Except.ok (hb w))

theorem shift6Form_of_row {r : Row} {op : BitVec 7} {f3 : BitVec 3} {top : BitVec 6} {mk : Reg → Reg → Word → Instr}
    (hr : r ∈ rows) (hm : r.mask = 0xFC00707F#32 := by rfl)
    (hp : r.pat = place 0 op ||| place 12 f3 ||| place 26 top := by decide)
    (hb : ∀ w, r.build w = mk (rdOf w) (rs1Of w) (shamt6 w) := by intro _; rfl) : Shift6Form op f3 top mk :=
  fun w h0 h12 h26 => (decode_of_FC00707F hr hm hp h0 h12 h26).trans (congrArg Except.ok (hb w))

theorem shift5Form_of_row {r : Row} {op : BitVec 7} {f3 : BitVec 3} {f7 : BitVec 7} {mk : Reg → Reg → Word → Instr}
    (hr : r ∈ rows) (hm : r.mask = 0xFE00707F#32 := by rfl)
    (hp : r.pat = place 0 op ||| place 12 f3 ||| place 25 f7 := by decide)
    (hb : ∀ w, r.build w = mk (rdOf w) (rs1Of w) (shamt5 w) := by intro _; rfl) : Shift5Form op f3 f7 mk :=
  fun w h0 h12 h25 => (decode_of_FE00707F hr hm hp h0 h12 h25).trans (congrArg Except.ok (hb w))

theorem uForm_of_row {r : Row} {op : BitVec 7} {mk : Reg → Word → Instr}
    (hr : r ∈ rows) (hm : r.mask = 0x0000007F#32 := by rfl) (hp : r.pat = place 0 op := by decide)
    (hb : ∀ w, r.build w = mk (rdOf w) (immU w) := by intro _; rfl) : UForm op mk :=
  fun w h0 => (decode_of_0000007F hr hm hp h0).trans (congrArg Except.ok (hb w))

theorem rowsControl_mem (k : Fin 10) : rowsControl[k] ∈ rows := mem_rowsControl (List.getElem_mem _)

theorem rowsOpImm_mem (k : Fin 13) : rowsOpImm[k] ∈ rows := mem_rowsOpImm (List.getElem_mem _)

theorem rowsOp_mem (k : Fin 15) : rowsOp[k] ∈ rows := mem_rowsOp (List.getElem_mem _)

/-- inst[25] is the low bit of inst[31:25]. -/
theorem bits_25_1 (w : Word32) : bits w 25 1 = (bits w 25 7).extractLsb' 0 1 := by
  ext i hi
  simp [bits, show i = 0 by omega]

end Sys2Proof

namespace Sys2Proof.Machine

open Claims

/-! ### The frame of an integer result (R130) -/

/-- An instruction whose meaning is one write of an integer result has the frame of `PutsX`: `he` is `exec`
unfolded for the instruction, `hv` reads the model's word as the claimed result. -/
theorem putsX_of_exec {i : Instr} {s : State} {rd : Reg} {v u : Word} (he : exec i s = putX rd v s) (hv : v = u) :
    PutsX i s rd u := by
  subst hv
  refine ⟨s.writeX rd v, he, fun x => readX_writeX s rd x v, readF_writeX s rd v, ?_, writeX_pc s rd v, ?_⟩
  · exact ⟨writeX_fcsr s rd v, readCsr_writeX s rd v, writeX_priv s rd v, writeX_halted s rd v⟩
  · exact ⟨by rw [writeX_mem], fun _ => by rw [writeX_mem]⟩

/-! ### Results as exact integers modulo 2^n -/

theorem add_ofInt_toInt {n : Nat} (x y : BitVec n) : x + y = BitVec.ofInt n (x.toInt + y.toInt) := by
  simp only [BitVec.ofInt_add, BitVec.ofInt_toInt]

theorem ofInt_toNat {n : Nat} (x : BitVec n) : BitVec.ofInt n x.toNat = x := by
  rw [BitVec.ofInt_natCast, BitVec.ofNat_toNat, BitVec.setWidth_eq]

theorem sub_ofInt_toNat {n : Nat} (x y : BitVec n) : x - y = BitVec.ofInt n (x.toNat - y.toNat) := by
  rw [ofInt_sub, ofInt_toNat, ofInt_toNat]

/-- AUIPC's sum: the address unsigned, the upper immediate signed (R162). -/
theorem add_upperImm (pc imm : Word) : pc + upperImm imm = BitVec.ofInt 64 (pc.toNat + imm.toInt * 2 ^ 12) := by
  rw [BitVec.ofInt_add, ofInt_toNat, upperImm_ofInt]

/-! ### Comparison results (R134) -/

theorem boolWord_slt (x y : Word) : boolWord (x.slt y) = oneIf (x.toInt < y.toInt) := by
  simp only [boolWord, oneIf, BitVec.slt, decide_eq_true_eq]

theorem boolWord_ult (x y : Word) : boolWord (x.ult y) = oneIf (x.toNat < y.toNat) := by
  simp only [boolWord, oneIf, BitVec.ult, decide_eq_true_eq]

/-! ### Word results (R131): the model's 32-bit value is the exact integer modulo 2^32 -/

theorem sext64_eq_word32 {v : Word32} {z : Int} (h : v = BitVec.ofInt 32 z) : sext64 v = word32 z := by
  rw [h, sext64_ofInt, word32]

theorem low32_ofInt (v : Word) : low32 v = BitVec.ofInt 32 (unsigned32 v) := low32_ofNat v

theorem low32_toInt_eq_signed32 (v : Word) : (low32 v).toInt = signed32 v := low32_toInt v

theorem sext64_low32_add (x y : Word) : sext64 (low32 x + low32 y) = word32 (unsigned32 x + unsigned32 y) :=
  sext64_eq_word32 (by rw [BitVec.ofInt_add, ← low32_ofInt, ← low32_ofInt])

theorem sext64_low32_sub (x y : Word) : sext64 (low32 x - low32 y) = word32 (unsigned32 x - unsigned32 y) :=
  sext64_eq_word32 (by rw [ofInt_sub, ← low32_ofInt, ← low32_ofInt])

theorem sext64_low32_shiftLeft (x : Word) (k : Nat) : sext64 (low32 x <<< k) = word32 (unsigned32 x * 2 ^ k) :=
  sext64_eq_word32 (by rw [shiftLeft_ofNat, low32_toNat, unsigned32, ← BitVec.ofInt_natCast]; push_cast; rfl)

theorem sext64_low32_ushiftRight (x : Word) (k : Nat) : sext64 (low32 x >>> k) = word32 (unsigned32 x / 2 ^ k) :=
  sext64_eq_word32 (by rw [ushiftRight_ofNat, low32_toNat, unsigned32, ← BitVec.ofInt_natCast]; push_cast; rfl)

theorem sext64_low32_sshiftRight (x : Word) (k : Nat) :
    sext64 ((low32 x).sshiftRight k) = word32 (signed32 x / 2 ^ k) :=
  sext64_eq_word32 (by rw [sshiftRight_ofInt, low32_toInt_eq_signed32])

end Sys2Proof.Machine

/-! ### The statements -/

namespace Sys2Proof.Proofs

open Machine Claims

/-- Settles O22: each result is the model's word read as an exact integer or a comparison. -/
theorem registerImmediateResults : Obligations.RegisterImmediateResults :=
  ⟨⟨iForm_of_row (rowsOpImm_mem 0), fun _ _ _ _ => putsX_of_exec rfl (add_ofInt_toInt _ _)⟩,
    ⟨iForm_of_row (rowsOpImm_mem 1), fun _ _ _ _ => putsX_of_exec rfl (boolWord_slt _ _)⟩,
    ⟨iForm_of_row (rowsOpImm_mem 2), fun _ _ _ _ => putsX_of_exec rfl (boolWord_ult _ _)⟩,
    ⟨iForm_of_row (rowsOpImm_mem 3), fun _ _ _ _ => putsX_of_exec rfl rfl⟩,
    ⟨iForm_of_row (rowsOpImm_mem 4), fun _ _ _ _ => putsX_of_exec rfl rfl⟩,
    ⟨iForm_of_row (rowsOpImm_mem 5), fun _ _ _ _ => putsX_of_exec rfl rfl⟩⟩

/-- Settles O23: shifts are products and floor quotients by powers of two; no row fills the last clause's cell. -/
theorem shiftImmediateResults : Obligations.ShiftImmediateResults :=
  ⟨⟨shift6Form_of_row (rowsOpImm_mem 6), fun _ _ _ _ _ => putsX_of_exec rfl (shiftLeft_ofNat _ _)⟩,
    ⟨shift6Form_of_row (rowsOpImm_mem 7), fun _ _ _ _ _ => putsX_of_exec rfl (ushiftRight_ofNat _ _)⟩,
    ⟨shift6Form_of_row (rowsOpImm_mem 8), fun _ _ _ _ _ => putsX_of_exec rfl (sshiftRight_ofInt _ _)⟩,
    fun w h0 h12 h26 => (undefinedWordsAreRejected w).2 (by simp [defined, h0, h12, h26])⟩

/-- Settles O24: the sums and differences modulo 2^64, the comparisons by order of the exact integers. -/
theorem registerRegisterResults : Obligations.RegisterRegisterResults :=
  ⟨⟨rForm_of_row (rowsOp_mem 0), fun _ _ _ _ => putsX_of_exec rfl (BitVec.add_def _ _)⟩,
    ⟨rForm_of_row (rowsOp_mem 1), fun _ _ _ _ => putsX_of_exec rfl (sub_ofInt_toNat _ _)⟩,
    ⟨rForm_of_row (rowsOp_mem 3), fun _ _ _ _ => putsX_of_exec rfl (boolWord_slt _ _)⟩,
    ⟨rForm_of_row (rowsOp_mem 4), fun _ _ _ _ => putsX_of_exec rfl (boolWord_ult _ _)⟩,
    ⟨rForm_of_row (rowsOp_mem 5), fun _ _ _ _ => putsX_of_exec rfl rfl⟩,
    ⟨rForm_of_row (rowsOp_mem 8), fun _ _ _ _ => putsX_of_exec rfl rfl⟩,
    ⟨rForm_of_row (rowsOp_mem 9), fun _ _ _ _ => putsX_of_exec rfl rfl⟩⟩

/-- Settles O25: the six bits of the amount are its remainder by 64. -/
theorem shiftRegisterResults : Obligations.ShiftRegisterResults :=
  ⟨⟨rForm_of_row (rowsOp_mem 2), fun _ _ _ _ => putsX_of_exec rfl (by rw [regShamt6_eq, shiftLeft_ofNat])⟩,
    ⟨rForm_of_row (rowsOp_mem 6), fun _ _ _ _ => putsX_of_exec rfl (by rw [regShamt6_eq, ushiftRight_ofNat])⟩,
    ⟨rForm_of_row (rowsOp_mem 7), fun _ _ _ _ => putsX_of_exec rfl (by rw [regShamt6_eq, sshiftRight_ofInt])⟩⟩

/-- Settles O26, by the laws of word results. -/
theorem wordArithmeticResults : Obligations.WordArithmeticResults :=
  ⟨⟨iForm_of_row (rowsOpImm_mem 9), fun _ _ _ _ => putsX_of_exec rfl (sext64_low32_add _ _)⟩,
    ⟨rForm_of_row (rowsOp_mem 10), fun _ _ _ _ => putsX_of_exec rfl (sext64_low32_add _ _)⟩,
    ⟨rForm_of_row (rowsOp_mem 11), fun _ _ _ _ => putsX_of_exec rfl (sext64_low32_sub _ _)⟩⟩

/-- Settles O27, by the laws of word results; inst[25] = 1 makes inst[31:25] none that a row fills. -/
theorem wordShiftImmediateResults : Obligations.WordShiftImmediateResults :=
  ⟨⟨shift5Form_of_row (rowsOpImm_mem 10), fun _ _ _ _ _ => putsX_of_exec rfl (sext64_low32_shiftLeft _ _)⟩,
    ⟨shift5Form_of_row (rowsOpImm_mem 11), fun _ _ _ _ _ => putsX_of_exec rfl (sext64_low32_ushiftRight _ _)⟩,
    ⟨shift5Form_of_row (rowsOpImm_mem 12), fun _ _ _ _ _ => putsX_of_exec rfl (sext64_low32_sshiftRight _ _)⟩,
    fun w h0 h12 h25 => (undefinedWordsAreRejected w).2 (by
      have h7 : bits w 25 7 ≠ 0b0000000#7 := fun h => by simp [bits_25_1, h] at h25
      simp [defined, h0, h12, h7])⟩

/-- Settles O28: the five bits of the amount are its remainder by 32 (D9). -/
theorem wordShiftRegisterResults : Obligations.WordShiftRegisterResults :=
  ⟨⟨rForm_of_row (rowsOp_mem 12), fun _ _ _ _ => putsX_of_exec rfl (by rw [regShamt5_eq, sext64_low32_shiftLeft])⟩,
    ⟨rForm_of_row (rowsOp_mem 13), fun _ _ _ _ => putsX_of_exec rfl (by rw [regShamt5_eq, sext64_low32_ushiftRight])⟩,
    ⟨rForm_of_row (rowsOp_mem 14), fun _ _ _ _ => putsX_of_exec rfl (by rw [regShamt5_eq, sext64_low32_sshiftRight])⟩⟩

/-- Settles O29: the upper immediate is a product by 2^12. -/
theorem upperImmediateResults : Obligations.UpperImmediateResults :=
  ⟨⟨uForm_of_row (rowsControl_mem 0), fun _ _ _ => putsX_of_exec rfl (upperImm_ofInt _)⟩,
    ⟨uForm_of_row (rowsControl_mem 1), fun _ _ _ => putsX_of_exec rfl (add_upperImm _ _)⟩⟩

end Sys2Proof.Proofs

/-! ## Family 41_control_transfer: targets, links and frames of the jumps and the branches

First the decoding of the B and J formats and the one frame of each kind of transfer; then the settled statements. -/

namespace Sys2Proof

open Claims

/-! ### Every word of a format is its row's instruction (R87, R89, R114) -/

theorem bForm_of_row {r : Row} {op : BitVec 7} {f3 : BitVec 3} {mk : Reg → Reg → Word → Instr}
    (hr : r ∈ rows) (hm : r.mask = 0x0000707F#32 := by rfl)
    (hp : r.pat = place 0 op ||| place 12 f3 := by decide)
    (hb : ∀ w, r.build w = mk (rs1Of w) (rs2Of w) (immB w) := by intro _; rfl) : BForm op f3 mk :=
  fun w h0 h12 => (decode_of_0000707F hr hm hp h0 h12).trans (congrArg Except.ok (hb w))

theorem jForm_of_row {r : Row} {op : BitVec 7} {mk : Reg → Word → Instr}
    (hr : r ∈ rows) (hm : r.mask = 0x0000007F#32 := by rfl) (hp : r.pat = place 0 op := by decide)
    (hb : ∀ w, r.build w = mk (rdOf w) (immJ w) := by intro _; rfl) : JForm op mk :=
  fun w h0 => (decode_of_0000007F hr hm hp h0).trans (congrArg Except.ok (hb w))

end Sys2Proof

namespace Sys2Proof.Machine

open Claims

/-! ### The frames of the transfers (R180, R183) -/

/-- The advance nets a jump to its target (R180). -/
theorem advance_jumpTo_pc (s : State) (target : Word) : (advance (s.jumpTo target)).pc = target :=
  BitVec.sub_add_cancel target 4

/-- An instruction whose meaning is a jump and link has the frame of `JumpsAndLinks`: `he` is `exec` unfolded for the
instruction, `ht` reads the model's target as the claimed one. -/
theorem jumpsAndLinks_of_exec {i : Instr} {s : State} {rd : Reg} {v target : Word} (he : exec i s = jumpLink rd v s)
    (ht : v = target) : JumpsAndLinks i s target rd (s.pc + 4) := by
  subst ht
  refine ⟨(s.writeX rd (s.pc + 4)).jumpTo v, he, rfl, advance_jumpTo_pc _ v, fun x => readX_writeX s rd x _,
    readF_writeX s rd _, ?_, ?_⟩
  · exact ⟨writeX_fcsr s rd _, readCsr_writeX s rd _, writeX_priv s rd _, writeX_halted s rd _⟩
  · exact ⟨by rw [jumpTo_mem, writeX_mem], fun _ => by rw [jumpTo_mem, writeX_mem]⟩

/-- A branch writes pc only: the advance nets a taken one to `pc + (k << 1)` and takes one not taken to `pc + 4`. The
model's test `taken` is read as the claimed comparison by `hp`. -/
theorem goesTo_of_exec {i : Instr} {s : State} {taken : Bool} {k : Word} {p : Prop} [Decidable p]
    (he : exec i s = branch taken k s) (hp : taken = true ↔ p) :
    GoesTo i s (if p then s.pc + k <<< 1 else s.pc + 4) := by
  cases taken with
  | true =>
    rw [if_pos (hp.1 rfl)]
    exact ⟨_, he, advance_jumpTo_pc s _, fun _ => rfl, fun _ => rfl, ⟨rfl, fun _ => rfl, rfl, rfl⟩, rfl, fun _ => rfl⟩
  | false =>
    rw [if_neg fun h => Bool.false_ne_true (hp.2 h)]
    exact ⟨s, he, advance_pc s, fun _ => rfl, fun _ => rfl, ⟨rfl, fun _ => rfl, rfl, rfl⟩, rfl, fun _ => rfl⟩

end Sys2Proof.Machine

/-! ### The statements -/

namespace Sys2Proof.Proofs

open Machine Claims

/-- Settles O30: the offset is added to the address of the jump itself. -/
theorem jumpAndLink : Obligations.JumpAndLink :=
  ⟨jForm_of_row (rowsControl_mem 2), fun _ _ _ => jumpsAndLinks_of_exec rfl rfl⟩

/-- Settles O31: the mask of the target clears its bit 0. -/
theorem jumpAndLinkRegister : Obligations.JumpAndLinkRegister :=
  ⟨iForm_of_row (rowsControl_mem 3), fun _ _ _ _ => jumpsAndLinks_of_exec rfl (clear_bit0 _)⟩

/-- Settles O32: each test of the model is the comparison that its rule names. -/
theorem branchesGoWhereTheyShould : Obligations.BranchesGoWhereTheyShould :=
  ⟨⟨bForm_of_row (rowsControl_mem 4), fun _ _ _ _ => goesTo_of_exec rfl beq_iff_eq⟩,
    ⟨bForm_of_row (rowsControl_mem 5), fun _ _ _ _ => goesTo_of_exec rfl bne_iff_ne⟩,
    ⟨bForm_of_row (rowsControl_mem 6), fun _ _ _ _ => goesTo_of_exec rfl BitVec.slt_iff_toInt_lt⟩,
    ⟨bForm_of_row (rowsControl_mem 7), fun _ _ _ _ => goesTo_of_exec rfl BitVec.sle_iff_toInt_le⟩,
    ⟨bForm_of_row (rowsControl_mem 8), fun _ _ _ _ => goesTo_of_exec rfl BitVec.ult_iff_lt⟩,
    ⟨bForm_of_row (rowsControl_mem 9), fun _ _ _ _ => goesTo_of_exec rfl BitVec.ule_iff_le⟩⟩

end Sys2Proof.Proofs

/-! ## Family 42_load_store: what a load puts in its register, what a store leaves in memory, and the faults outside

First the decoding of the S format; then the extended windows, the bytes of a store and the faults; then the settled
statements. -/

namespace Sys2Proof

open Claims

/-! ### Every word of a format is its row's instruction (R86, R114) -/

theorem sForm_of_row {r : Row} {op : BitVec 7} {f3 : BitVec 3} {mk : Reg → Reg → Word → Instr}
    (hr : r ∈ rows) (hm : r.mask = 0x0000707F#32 := by rfl)
    (hp : r.pat = place 0 op ||| place 12 f3 := by decide)
    (hb : ∀ w, r.build w = mk (rs1Of w) (rs2Of w) (immS w) := by intro _; rfl) : SForm op f3 mk :=
  fun w h0 h12 => (decode_of_0000707F hr hm hp h0 h12).trans (congrArg Except.ok (hb w))

theorem rowsLoadStore_mem (k : Fin 11) : rowsLoadStore[k] ∈ rows := mem_rowsLoadStore (List.getElem_mem _)

end Sys2Proof

namespace Sys2Proof.Machine

open Claims

/-! ### The value of a window, extended (R201) -/

theorem windowValue_lt (m : Memory) (a n : Nat) : windowValue m a n < 256 ^ n :=
  leValue_eq_windowValue m a n ▸ leValue_lt m a n

theorem pow_256 (n : Nat) : 256 ^ n = 2 ^ (8 * n) := by rw [pow_mul]; rfl

/-- A signed load reads the low bytes of the window as a signed number. -/
theorem sextFrom_eq_signedWindow (w : Width) (v : Nat) :
    sextFrom (8 * w.bytes) (BitVec.ofNat 64 v) = signedWindow w.bytes v := by
  have hw := w.bytes_le
  rw [sextFrom, BitVec.setWidth_ofNat_of_le (by omega), sext64, BitVec.signExtend, BitVec.toInt_ofNat', signedWindow,
    ← pow_256]

/-- An unsigned load of a window keeps its value. -/
theorem zextFrom_of_lt (w : Width) {v : Nat} (hv : v < 256 ^ w.bytes) :
    zextFrom (8 * w.bytes) (BitVec.ofNat 64 v) = BitVec.ofNat 64 v := by
  have hw := w.bytes_le
  rw [zextFrom, BitVec.setWidth_ofNat_of_le (by omega), zext64, BitVec.setWidth_ofNat_of_le_of_lt (by omega)
    (pow_256 w.bytes ▸ hv)]

/-- The extension of a doubleword changes nothing (R205). -/
theorem sextFrom_64 (v : Word) : sextFrom 64 v = v := by rw [sextFrom, sext64, BitVec.setWidth_eq, BitVec.signExtend_eq]

/-! ### The frames of loads and stores (R201, R209) -/

/-- A load inside the buffer has the frame of `PutsX`: `he` is `exec` unfolded for the instruction, `hv` reads the
model's extension of a window as the claimed one. -/
theorem putsX_of_loadX {i : Instr} {s : State} {w : Width} {ext : Word → Word} {rd : Reg} {addr : Word}
    {claimed : Nat → Word} (he : exec i s = loadX w ext rd addr s)
    (hv : ∀ v < 256 ^ w.bytes, ext (BitVec.ofNat 64 v) = claimed v) (hin : Inside s addr w) :
    PutsX i s rd (claimed (windowValue s.mem addr.toNat w.bytes)) := by
  refine putsX_of_exec ?_ (hv _ (windowValue_lt s.mem addr.toNat w.bytes))
  rw [he, loadX_inside ext rd ((inside_iff ..).2 hin), leValue_eq_windowValue, putX]

theorem extractLsb'_byte (v : Word) (k : Nat) : v.extractLsb' (8 * k) 8 = BitVec.ofNat 8 (v.toNat / 256 ^ k) := by
  rw [BitVec.extractLsb', Nat.shiftRight_eq_div_pow, pow_256]

theorem wroteMem_setBytes {s t : State} {a n : Nat} {v : Word} (h : t.mem = s.mem.setBytes a n v) :
    WroteMem a n v.toNat s t :=
  ⟨by rw [h, setBytes_size], fun b => by rw [h, byte_setBytes, extractLsb'_byte]⟩

/-- A store inside the buffer changes its window and nothing else: `he` is `exec` unfolded for the instruction. -/
theorem stores_of_store {i : Instr} {s : State} {w : Width} {addr v : Word} (he : exec i s = store w addr v s)
    (hin : Inside s addr w) : Stores i s addr.toNat w.bytes v.toNat :=
  ⟨_, he.trans (store_inside v ((inside_iff ..).2 hin)), fun _ => rfl, fun _ => rfl, ⟨rfl, fun _ => rfl, rfl, rfl⟩, rfl,
    wroteMem_setBytes rfl⟩

/-! ### The faults of loads and stores (R200, R343) -/

/-- An access at `x[rs1] + imm` faults outside the buffer; from x0 with a negative displacement it lies outside every
buffer (R200). `mk` is the instruction as a function of its rs1. -/
theorem faults_of_dataAccess {mk : Reg → Instr} {s : State} {imm : Word} {w : Width}
    (ha : ∀ r, dataAccess (mk r) s = some (s.readX r + imm, w)) (rs1 : Reg) :
    (¬ Inside s (s.readX rs1 + imm) w → exec (mk rs1) s = .fault (.memoryFault (s.readX rs1 + imm) w)) ∧
      (NegativeDisplacement imm → exec (mk 0) s = .fault (.memoryFault imm w)) := by
  refine ⟨fun hout => exec_of_outside (ha rs1) (inside_eq_false hout), fun ⟨hlow, hneg⟩ => ?_⟩
  have h0 : dataAccess (mk 0) s = some (imm, w) := by rw [ha, readX_zero, zero_add]
  exact exec_of_outside h0 (outside_of_negative s.mem w hlow hneg)

/-! ### The rules of the integer loads and stores (R201, R209) -/

/-- The rule of a load that reads w bytes at `x[rs1] + imm` and extends them by `ext`, which `hv` reads as the claimed
extension. -/
theorem loads_of_exec {mk : Reg → Reg → Word → Instr} {w : Width} {ext : Word → Word} {claimed : Nat → Word}
    (hv : ∀ v < 256 ^ w.bytes, ext (BitVec.ofNat 64 v) = claimed v)
    (he : ∀ s rd rs1 imm, exec (mk rd rs1 imm) s = loadX w ext rd (s.readX rs1 + imm) s := by intros; rfl)
    (ha : ∀ s rd rs1 imm, dataAccess (mk rd rs1 imm) s = some (s.readX rs1 + imm, w) := by intros; rfl)
    (s : State) (rd rs1 : Reg) (imm : Word) :
    (Inside s (s.readX rs1 + imm) w →
      PutsX (mk rd rs1 imm) s rd (claimed (windowValue s.mem (s.readX rs1 + imm).toNat w.bytes))) ∧
    (¬ Inside s (s.readX rs1 + imm) w → exec (mk rd rs1 imm) s = .fault (.memoryFault (s.readX rs1 + imm) w)) ∧
    (NegativeDisplacement imm → exec (mk rd 0 imm) s = .fault (.memoryFault imm w)) :=
  ⟨putsX_of_loadX (he s rd rs1 imm) hv, faults_of_dataAccess (mk := fun r => mk rd r imm) (ha s rd · imm) rs1⟩

/-- The rule of a store that writes the low w bytes of `x[rs2]` at `x[rs1] + imm`. -/
theorem stores_of_exec {mk : Reg → Reg → Word → Instr} {w : Width}
    (he : ∀ s rs1 rs2 imm, exec (mk rs1 rs2 imm) s = store w (s.readX rs1 + imm) (s.readX rs2) s := by intros; rfl)
    (ha : ∀ s rs1 rs2 imm, dataAccess (mk rs1 rs2 imm) s = some (s.readX rs1 + imm, w) := by intros; rfl)
    (s : State) (rs1 rs2 : Reg) (imm : Word) :
    (Inside s (s.readX rs1 + imm) w →
      Stores (mk rs1 rs2 imm) s (s.readX rs1 + imm).toNat w.bytes (s.readX rs2).toNat) ∧
    (¬ Inside s (s.readX rs1 + imm) w → exec (mk rs1 rs2 imm) s = .fault (.memoryFault (s.readX rs1 + imm) w)) ∧
    (NegativeDisplacement imm → exec (mk 0 rs2 imm) s = .fault (.memoryFault imm w)) :=
  ⟨stores_of_store (he s rs1 rs2 imm), faults_of_dataAccess (mk := fun r => mk r rs2 imm) (ha s · rs2 imm) rs1⟩

end Sys2Proof.Machine

/-! ### The statements -/

namespace Sys2Proof.Proofs

open Machine Claims

/-- Settles O33: each form is a load of its window under its extension; no row fills funct3 111 of the group. -/
theorem loadsReadTheirWindow : Obligations.LoadsReadTheirWindow :=
  ⟨⟨iForm_of_row (rowsLoadStore_mem 0), loads_of_exec fun v _ => sextFrom_eq_signedWindow .byte v⟩,
    ⟨iForm_of_row (rowsLoadStore_mem 1), loads_of_exec fun v _ => sextFrom_eq_signedWindow .half v⟩,
    ⟨iForm_of_row (rowsLoadStore_mem 2), loads_of_exec fun v _ => sextFrom_eq_signedWindow .word v⟩,
    ⟨iForm_of_row (rowsLoadStore_mem 3), loads_of_exec fun _ _ => sextFrom_64 _⟩,
    ⟨iForm_of_row (rowsLoadStore_mem 4), loads_of_exec fun _ => zextFrom_of_lt .byte⟩,
    ⟨iForm_of_row (rowsLoadStore_mem 5), loads_of_exec fun _ => zextFrom_of_lt .half⟩,
    ⟨iForm_of_row (rowsLoadStore_mem 6), loads_of_exec fun _ => zextFrom_of_lt .word⟩,
    fun w h0 h12 => (undefinedWordsAreRejected w).2 (by simp [defined, h0, h12])⟩

/-- Settles O34: each form is a store of its width; no row fills a cell of the group with inst[14] = 1. -/
theorem storesWriteTheirWindow : Obligations.StoresWriteTheirWindow :=
  ⟨⟨sForm_of_row (rowsLoadStore_mem 7), stores_of_exec⟩,
    ⟨sForm_of_row (rowsLoadStore_mem 8), stores_of_exec⟩,
    ⟨sForm_of_row (rowsLoadStore_mem 9), stores_of_exec⟩,
    ⟨sForm_of_row (rowsLoadStore_mem 10), stores_of_exec⟩,
    fun w h0 h14 => (undefinedWordsAreRejected w).2 (by simp [defined, h0, h14])⟩

end Sys2Proof.Proofs

/-! ## Family 43_muldiv: products, quotients and remainders, and the law that ties the last two

First the rows of the part of the table; then the exact integers of the results, at 64 bits and at 32; then the settled
statements. -/

namespace Sys2Proof

open Claims

theorem rowsMulDiv_mem (k : Fin 13) : rowsMulDiv[k] ∈ rows := mem_rowsMulDiv (List.getElem_mem _)

theorem rowsMulDiv_mask (k : Fin 13) : rowsMulDiv[k].mask = 0xFE00707F#32 := by
  fin_cases k <;> rfl

/-- A row of the multiply and divide part reads its words: they all have one mask and one funct7 (R102, R103). -/
theorem rForm_of_rowsMulDiv (k : Fin 13) {op : BitVec 7} {f3 : BitVec 3} {mk : Reg → Reg → Reg → Instr}
    (hp : rowsMulDiv[k].pat = place 0 op ||| place 12 f3 ||| place 25 0b0000001#7)
    (hb : ∀ w, rowsMulDiv[k].build w = mk (rdOf w) (rs1Of w) (rs2Of w)) : RForm op f3 0b0000001#7 mk :=
  rForm_of_row (rowsMulDiv_mem k) (rowsMulDiv_mask k) hp hb

end Sys2Proof

namespace Sys2Proof.Machine

open Claims

/-! ### Products (R222 to R225) -/

theorem mul_ofInt_toInt {n : Nat} (x y : BitVec n) : x * y = BitVec.ofInt n (x.toInt * y.toInt) := by
  rw [BitVec.ofInt_mul, BitVec.ofInt_toInt, BitVec.ofInt_toInt]

theorem mulHigh_natCast (a b : Nat) : mulHigh a b = BitVec.ofNat 64 (a * b / 2 ^ 64) := by
  rw [mulHigh_eq, ← BitVec.ofInt_natCast]
  push_cast
  rfl

theorem sext64_low32_mul (x y : Word) : sext64 (low32 x * low32 y) = word32 (unsigned32 x * unsigned32 y) :=
  sext64_eq_word32 (by rw [BitVec.ofInt_mul, ← low32_ofInt, ← low32_ofInt])

/-! ### Quotients and remainders with their edge cases (R221), the operands read as integers -/

section
variable {L : Nat}

theorem zero_iff_toNat (x : BitVec L) : x = 0 ↔ x.toNat = 0 := BitVec.toNat_inj (y := 0#L).symm

theorem divS_toInt [NeZero L] (x y : BitVec L) : divS x y =
    if y.toInt = 0 then -1
    else if x.toInt = -2 ^ (L - 1) ∧ y.toInt = -1 then BitVec.intMin L
    else BitVec.ofInt L (x.toInt.tdiv y.toInt) := by
  simp only [divS, ← zero_iff, ← intMin_iff (NeZero.pos L), ← allOnes_iff (NeZero.pos L)]
  split_ifs with hzero hover
  · exact BitVec.neg_one_eq_allOnes.symm
  · exact hover.1
  · rfl

theorem remS_toInt [NeZero L] (x y : BitVec L) : remS x y =
    if y.toInt = 0 then x
    else if x.toInt = -2 ^ (L - 1) ∧ y.toInt = -1 then 0
    else BitVec.ofInt L (x.toInt.tmod y.toInt) := by
  simp only [remS, ← zero_iff, ← intMin_iff (NeZero.pos L), ← allOnes_iff (NeZero.pos L), sub_mul_tdiv]

theorem divU_toNat (x y : BitVec L) : divU x y =
    if y.toNat = 0 then -1 else BitVec.ofNat L (x.toNat / y.toNat) := by
  simp only [divU, zero_iff_toNat, ← BitVec.neg_one_eq_allOnes]
  rfl

theorem remU_toNat (x y : BitVec L) : remU x y =
    if y.toNat = 0 then x else BitVec.ofNat L (x.toNat % y.toNat) := by
  simp only [remU, zero_iff_toNat]

/-! ### `dividend = divisor * quotient + remainder` (R221) -/

/-- In the overflow the quotient is the dividend -2^(L-1), which is its own negation, and the remainder is 0. -/
theorem mul_divS_add_remS (x y : BitVec L) : y * divS x y + remS x y = x := by
  unfold divS remS
  split_ifs with hzero hover
  · rw [hzero, zero_mul, zero_add]
  · obtain ⟨rfl, rfl⟩ := hover
    rw [← BitVec.neg_one_eq_allOnes, BitVec.neg_mul, BitVec.one_mul, BitVec.neg_intMin, add_zero]
  · calc y * BitVec.ofInt L (x.toInt.tdiv y.toInt) + BitVec.ofInt L (x.toInt - y.toInt * x.toInt.tdiv y.toInt)
        = BitVec.ofInt L (y.toInt * x.toInt.tdiv y.toInt + x.toInt.tmod y.toInt) := by
          rw [BitVec.ofInt_add, BitVec.ofInt_mul, BitVec.ofInt_toInt, sub_mul_tdiv]
      _ = x := by rw [Int.mul_tdiv_add_tmod, BitVec.ofInt_toInt]

theorem mul_divU_add_remU (x y : BitVec L) : y * divU x y + remU x y = x := by
  unfold divU remU
  split_ifs with hzero
  · rw [hzero, zero_mul, zero_add]
  · calc y * BitVec.ofNat L (x.toNat / y.toNat) + BitVec.ofNat L (x.toNat % y.toNat)
        = BitVec.ofNat L (y.toNat * (x.toNat / y.toNat) + x.toNat % y.toNat) := by
          rw [BitVec.ofNat_add, BitVec.ofNat_mul, BitVec.ofNat_toNat, BitVec.setWidth_eq]
      _ = x := by rw [Nat.div_add_mod, BitVec.ofNat_toNat, BitVec.setWidth_eq]

/-- The model's remainder is the truncating one, its edge cases included: by zero the dividend, by -1 zero. -/
theorem toInt_remS [NeZero L] (x y : BitVec L) : (remS x y).toInt = x.toInt.tmod y.toInt := by
  rw [remS_toInt]
  split_ifs with hzero hover
  · rw [hzero, Int.tmod_zero]
  · rw [hover.2, Int.tmod_neg, Int.tmod_one]
    exact BitVec.toInt_zero
  · rw [← BitVec.toInt_srem, BitVec.ofInt_toInt]

theorem remS_sign [NeZero L] (x y : BitVec L) : (remS x y).toInt = 0 ∨ ((remS x y).toInt < 0 ↔ x.toInt < 0) := by
  rw [toInt_remS]
  by_cases hdvd : y.toInt ∣ x.toInt
  · exact .inl (Int.tmod_eq_zero_of_dvd hdvd)
  · have hsign : (x.toInt.tmod y.toInt).sign = x.toInt.sign := by rw [Int.sign_tmod, if_neg hdvd]
    exact .inr (by rw [← Int.sign_eq_neg_one_iff_neg, hsign, Int.sign_eq_neg_one_iff_neg])

end

/-! ### Word forms (R231 to R234): the 32-bit quotient or remainder of the low words, sign-extended -/

theorem sext64_low32 (x : Word) : sext64 (low32 x) = word32 (signed32 x) :=
  sext64_eq_word32 (by rw [← low32_toInt_eq_signed32, BitVec.ofInt_toInt])

theorem sext64_ofNat (n : Nat) : sext64 (BitVec.ofNat 32 n) = word32 n :=
  sext64_eq_word32 (BitVec.ofInt_natCast 32 n).symm

theorem sext64_divS (x y : Word) : sext64 (divS (low32 x) (low32 y)) =
    if signed32 y = 0 then -1
    else if signed32 x = -2 ^ 31 ∧ signed32 y = -1 then 0xFFFFFFFF80000000#64
    else word32 ((signed32 x).tdiv (signed32 y)) := by
  rw [divS_toInt, low32_toInt_eq_signed32, low32_toInt_eq_signed32, apply_ite sext64, apply_ite sext64,
    sext64_eq_word32 rfl]
  rfl

theorem sext64_divU (x y : Word) : sext64 (divU (low32 x) (low32 y)) =
    if unsigned32 y = 0 then -1 else word32 (unsigned32 x / unsigned32 y : Nat) := by
  rw [divU_toNat, low32_toNat, low32_toNat, apply_ite sext64, sext64_ofNat]
  rfl

theorem sext64_remS (x y : Word) : sext64 (remS (low32 x) (low32 y)) =
    if signed32 y = 0 then word32 (signed32 x)
    else if signed32 x = -2 ^ 31 ∧ signed32 y = -1 then 0
    else word32 ((signed32 x).tmod (signed32 y)) := by
  rw [remS_toInt, low32_toInt_eq_signed32, low32_toInt_eq_signed32, apply_ite sext64, apply_ite sext64,
    sext64_low32, sext64_eq_word32 rfl]
  rfl

theorem sext64_remU (x y : Word) : sext64 (remU (low32 x) (low32 y)) =
    if unsigned32 y = 0 then word32 (signed32 x) else word32 (unsigned32 x % unsigned32 y : Nat) := by
  rw [remU_toNat, low32_toNat, low32_toNat, apply_ite sext64, sext64_low32, sext64_ofNat]
  rfl

end Sys2Proof.Machine

/-! ### The statements -/

namespace Sys2Proof.Proofs

open Machine Claims

/-- The cells that word forms of the high products would have are empty (R103). -/
theorem undefined_highProductWord {w : Word32} (h0 : bits w 0 7 = 0b0111011#7) (h25 : bits w 25 7 = 0b0000001#7)
    (h12 : bits w 12 3 = 0b001#3 ∨ bits w 12 3 = 0b010#3 ∨ bits w 12 3 = 0b011#3) : Undefined w := by
  rw [undefinedWordsAreRejected]
  rcases h12 with h12 | h12 | h12 <;> simp [defined, h0, h25, h12]

/-- Settles O35: each result is a half of the exact product. -/
theorem multiplyResults : Obligations.MultiplyResults :=
  ⟨⟨rForm_of_rowsMulDiv 0 rfl fun _ => rfl, fun _ _ _ _ => putsX_of_exec rfl (mul_ofInt_toInt _ _)⟩,
    ⟨rForm_of_rowsMulDiv 1 rfl fun _ => rfl, fun _ _ _ _ => putsX_of_exec rfl (mulHigh_eq _ _)⟩,
    ⟨rForm_of_rowsMulDiv 2 rfl fun _ => rfl, fun _ _ _ _ => putsX_of_exec rfl (mulHigh_eq _ _)⟩,
    ⟨rForm_of_rowsMulDiv 3 rfl fun _ => rfl, fun _ _ _ _ => putsX_of_exec rfl (mulHigh_natCast _ _)⟩,
    ⟨rForm_of_rowsMulDiv 8 rfl fun _ => rfl, fun _ _ _ _ => putsX_of_exec rfl (sext64_low32_mul _ _)⟩,
    fun _ => undefined_highProductWord⟩

/-- Settles O36: the tests of the model on words are those of R221 on their integers. -/
theorem divideResults : Obligations.DivideResults :=
  ⟨⟨rForm_of_rowsMulDiv 4 rfl fun _ => rfl, fun _ _ _ _ => putsX_of_exec rfl (divS_toInt _ _)⟩,
    ⟨rForm_of_rowsMulDiv 5 rfl fun _ => rfl, fun _ _ _ _ => putsX_of_exec rfl (divU_toNat _ _)⟩,
    ⟨rForm_of_rowsMulDiv 6 rfl fun _ => rfl, fun _ _ _ _ => putsX_of_exec rfl (remS_toInt _ _)⟩,
    ⟨rForm_of_rowsMulDiv 7 rfl fun _ => rfl, fun _ _ _ _ => putsX_of_exec rfl (remU_toNat _ _)⟩⟩

/-- Settles O37, by the same on the low words. -/
theorem divideWordResults : Obligations.DivideWordResults :=
  ⟨⟨rForm_of_rowsMulDiv 9 rfl fun _ => rfl, fun _ _ _ _ => putsX_of_exec rfl (sext64_divS _ _)⟩,
    ⟨rForm_of_rowsMulDiv 10 rfl fun _ => rfl, fun _ _ _ _ => putsX_of_exec rfl (sext64_divU _ _)⟩,
    ⟨rForm_of_rowsMulDiv 11 rfl fun _ => rfl, fun _ _ _ _ => putsX_of_exec rfl (sext64_remS _ _)⟩,
    ⟨rForm_of_rowsMulDiv 12 rfl fun _ => rfl, fun _ _ _ _ => putsX_of_exec rfl (sext64_remU _ _)⟩⟩

/-- Settles O38: the law and the sign hold at every width. -/
theorem quotientAndRemainderAgree : Obligations.QuotientAndRemainderAgree :=
  ⟨fun x y => ⟨mul_divS_add_remS x y, mul_divU_add_remU x y⟩,
    fun x y => ⟨mul_divS_add_remS x y, mul_divU_add_remU x y⟩,
    remS_sign, remS_sign⟩

end Sys2Proof.Proofs

/-! ## Family 45_atomics: load-reserved, store-conditional and the atomic operations on memory

First the decoding of the group; then the arithmetic and the frame of the operations; then the settled statements. -/

namespace Sys2Proof

open Claims

/-! ### Every word of the group is its row's instruction, whatever aq and rl hold (R83, R110, R117) -/

theorem rowsAtomic_mem (k : Fin 22) : rowsAtomic[k] ∈ rows := mem_rowsAtomic (List.getElem_mem _)

theorem amoForm_of_rowsAtomic (k : Fin 22) {f3 : BitVec 3} {f5 : BitVec 5} {mk : Reg → Reg → Reg → Instr}
    (hm : rowsAtomic[k].mask = 0xF800707F#32)
    (hp : rowsAtomic[k].pat = place 0 0b0101111#7 ||| place 12 f3 ||| place 27 f5)
    (hb : ∀ w, rowsAtomic[k].build w = mk (rdOf w) (rs1Of w) (rs2Of w)) : AmoForm f3 f5 mk := fun w h0 h12 h27 =>
  (decode_of_F800707F (rowsAtomic_mem k) hm hp h0 h12 h27).trans (congrArg Except.ok (hb w))

theorem lrForm_of_rowsAtomic (k : Fin 22) {f3 : BitVec 3} {mk : Reg → Reg → Instr}
    (hm : rowsAtomic[k].mask = 0xF9F0707F#32)
    (hp : rowsAtomic[k].pat = place 0 0b0101111#7 ||| place 12 f3 ||| place 20 0b00000#5 ||| place 27 0b00010#5)
    (hb : ∀ w, rowsAtomic[k].build w = mk (rdOf w) (rs1Of w)) : LrForm f3 mk := fun w h0 h12 h27 h20 =>
  (decode_of_F9F0707F (rowsAtomic_mem k) hm hp h0 h12 h20 h27).trans (congrArg Except.ok (hb w))

end Sys2Proof

namespace Sys2Proof.Machine

open Claims

/-! ### The operations on naturals (R294 to R302, R305 to R313) -/

/-- The operation on L-bit values is `claimed` on the naturals they hold. -/
def Computes {L : Nat} (op : BitVec L → BitVec L → BitVec L) (claimed : Nat → Nat → Nat) : Prop :=
  ∀ old src, (op old src).toNat = claimed old.toNat src.toNat

section
variable {L : Nat}

theorem computes_swap : Computes (L := L) (fun _ src => src) fun _ src => src := fun _ _ => rfl

theorem computes_add : Computes (L := L) (fun old src => old + src) fun old src => (old + src) % 2 ^ L :=
  BitVec.toNat_add

theorem computes_xor : Computes (L := L) (fun old src => old ^^^ src) fun old src => old ^^^ src := BitVec.toNat_xor

theorem computes_and : Computes (L := L) (fun old src => old &&& src) fun old src => old &&& src := BitVec.toNat_and

theorem computes_or : Computes (L := L) (fun old src => old ||| src) fun old src => old ||| src := BitVec.toNat_or

/-- The signed order of two words is the order of their balanced residues. -/
theorem sle_iff_bmod_le (x y : BitVec L) :
    x.sle y = true ↔ (x.toNat : Int).bmod (2 ^ L) ≤ (y.toNat : Int).bmod (2 ^ L) := by
  rw [BitVec.sle_iff_toInt_le, BitVec.toInt_eq_toNat_bmod, BitVec.toInt_eq_toNat_bmod]

theorem computes_minS : Computes (L := L) (fun old src => if old.sle src then old else src)
    fun old src => if (old : Int).bmod (2 ^ L) ≤ (src : Int).bmod (2 ^ L) then old else src := fun old src => by
  simp only [apply_ite BitVec.toNat, sle_iff_bmod_le]

theorem computes_maxS : Computes (L := L) (fun old src => if src.sle old then old else src)
    fun old src => if (old : Int).bmod (2 ^ L) ≥ (src : Int).bmod (2 ^ L) then old else src := fun old src => by
  simp only [apply_ite BitVec.toNat, sle_iff_bmod_le, ge_iff_le]

theorem computes_minU : Computes (L := L) (fun old src => if old.ule src then old else src)
    fun old src => if old ≤ src then old else src := fun old src => by
  simp only [apply_ite BitVec.toNat, BitVec.ule_iff_toNat_le]

theorem computes_maxU : Computes (L := L) (fun old src => if src.ule old then old else src)
    fun old src => if old ≥ src then old else src := fun old src => by
  simp only [apply_ite BitVec.toNat, BitVec.ule_iff_toNat_le, ge_iff_le]

end

/-! ### The frame of an operation that stores and writes a register (R290, R291) -/

/-- One write of a window and one of a register have the frame of `StoresAndPuts`. -/
theorem storesAndPuts_of_exec {i : Instr} {s : State} {a n : Nat} {v u : Word} {rd : Reg}
    (he : exec i s = .next (State.writeX { s with mem := s.mem.setBytes a n v } rd u)) :
    StoresAndPuts i s a n v.toNat rd u :=
  ⟨_, he, fun r => readX_writeX _ rd r u, readF_writeX _ rd u,
    ⟨writeX_fcsr _ rd u, readCsr_writeX _ rd u, writeX_priv _ rd u, writeX_halted _ rd u⟩, writeX_pc _ rd u,
    wroteMem_setBytes (writeX_mem _ rd u)⟩

/-! ### The rules of the group: what happens inside the buffer and the fault outside (R290, R291, R343)

`mk` is the instruction as a function of its registers, `he` is `exec` unfolded for it. -/

/-- LR reads the window at `x[rs1]` and extends its sign. -/
theorem loadReserved_of_exec {mk : Reg → Reg → Instr} {w : Width}
    (he : ∀ s rd rs1, exec (mk rd rs1) s = loadX w (sextFrom (8 * w.bytes)) rd (s.readX rs1) s)
    (s : State) (rd rs1 : Reg) :
    (Inside s (s.readX rs1) w →
      PutsX (mk rd rs1) s rd (signedWindow w.bytes (windowValue s.mem (s.readX rs1).toNat w.bytes))) ∧
    (¬ Inside s (s.readX rs1) w → exec (mk rd rs1) s = .fault (.memoryFault (s.readX rs1) w)) :=
  ⟨putsX_of_loadX (he s rd rs1) fun v _ => sextFrom_eq_signedWindow w v,
    fun hout => (he s rd rs1).trans (loadX_outside _ rd (inside_eq_false hout))⟩

/-- SC stores `x[rs2]` at `x[rs1]` and writes 0 to rd. -/
theorem storeConditional_of_exec {mk : Reg → Reg → Reg → Instr} {w : Width}
    (he : ∀ s rd rs1 rs2, exec (mk rd rs1 rs2) s = storeCond w rd (s.readX rs1) (s.readX rs2) s)
    (s : State) (rd rs1 rs2 : Reg) :
    (Inside s (s.readX rs1) w →
      StoresAndPuts (mk rd rs1 rs2) s (s.readX rs1).toNat w.bytes (s.readX rs2).toNat rd 0) ∧
    (¬ Inside s (s.readX rs1) w → exec (mk rd rs1 rs2) s = .fault (.memoryFault (s.readX rs1) w)) :=
  ⟨fun hin => storesAndPuts_of_exec ((he s rd rs1 rs2).trans (storeCond_inside rd _ ((inside_iff ..).2 hin))),
    fun hout => (he s rd rs1 rs2).trans (storeCond_outside rd _ (inside_eq_false hout))⟩

/-- An AMO on L-bit values, for a width of L bits: the old value is the window's, the source is `x[rs2]` modulo 2^L. -/
theorem amo_of_exec {mk : Reg → Reg → Reg → Instr} {w : Width} {L : Nat} {op : BitVec L → BitVec L → BitVec L}
    {claimed : Nat → Nat → Nat} (hL : L = 8 * w.bytes) (hop : Computes op claimed)
    (he : ∀ s rd rs1 rs2, exec (mk rd rs1 rs2) s = amo w L op rd rs1 rs2 s) (s : State) (rd rs1 rs2 : Reg) :
    (Inside s (s.readX rs1) w →
      let old := windowValue s.mem (s.readX rs1).toNat w.bytes
      StoresAndPuts (mk rd rs1 rs2) s (s.readX rs1).toNat w.bytes (claimed old ((s.readX rs2).toNat % 2 ^ L)) rd
        (signedWindow w.bytes old)) ∧
    (¬ Inside s (s.readX rs1) w → exec (mk rd rs1 rs2) s = .fault (.memoryFault (s.readX rs1) w)) := by
  refine ⟨fun hin => ?_, fun hout => (he s rd rs1 rs2).trans (amo_outside op rd rs1 rs2 (inside_eq_false hout))⟩
  intro old
  have hle : L ≤ 64 := by have := w.bytes_le; omega
  have hold : old < 2 ^ L := by rw [hL, ← pow_256]; exact windowValue_lt ..
  have hval : (zext64 (op (BitVec.ofNat L old) ((s.readX rs2).setWidth L))).toNat =
      claimed old ((s.readX rs2).toNat % 2 ^ L) := by
    rw [zext64, BitVec.toNat_setWidth_of_le hle, hop, BitVec.toNat_ofNat, Nat.mod_eq_of_lt hold, BitVec.toNat_setWidth]
  have hres : sext64 (BitVec.ofNat L old) = signedWindow w.bytes old := by
    rw [← sextFrom_eq_signedWindow, ← hL, sextFrom, BitVec.setWidth_ofNat_of_le hle]
  rw [← hval, ← hres]
  apply storesAndPuts_of_exec
  rw [he, amo_inside op rd rs1 rs2 ((inside_iff ..).2 hin), leValue_eq_windowValue, BitVec.setWidth_ofNat_of_le hle]

theorem amoWord_of_exec (mk : Reg → Reg → Reg → Instr) {op : Word32 → Word32 → Word32} {claimed : Nat → Nat → Nat}
    (hop : Computes op claimed)
    (he : ∀ s rd rs1 rs2, exec (mk rd rs1 rs2) s = amo .word 32 op rd rs1 rs2 s)
    (s : State) (rd rs1 rs2 : Reg) :
    (Inside s (s.readX rs1) .word →
      let old := windowValue s.mem (s.readX rs1).toNat 4
      StoresAndPuts (mk rd rs1 rs2) s (s.readX rs1).toNat 4 (claimed old (unsigned32 (s.readX rs2))) rd
        (signedWindow 4 old)) ∧
    (¬ Inside s (s.readX rs1) .word → exec (mk rd rs1 rs2) s = .fault (.memoryFault (s.readX rs1) .word)) :=
  amo_of_exec (w := .word) (L := 32) rfl hop he s rd rs1 rs2

/-- A signed window of eight bytes is the whole word. -/
theorem signedWindow_double (v : Nat) : signedWindow 8 v = BitVec.ofNat 64 v :=
  (sextFrom_eq_signedWindow .double v).symm.trans (sextFrom_64 _)

theorem amoDouble_of_exec (mk : Reg → Reg → Reg → Instr) {op : Word → Word → Word} {claimed : Nat → Nat → Nat}
    (hop : Computes op claimed)
    (he : ∀ s rd rs1 rs2, exec (mk rd rs1 rs2) s = amo .double 64 op rd rs1 rs2 s)
    (s : State) (rd rs1 rs2 : Reg) :
    (Inside s (s.readX rs1) .double →
      let old := windowValue s.mem (s.readX rs1).toNat 8
      StoresAndPuts (mk rd rs1 rs2) s (s.readX rs1).toNat 8 (claimed old (s.readX rs2).toNat) rd
        (BitVec.ofNat 64 old)) ∧
    (¬ Inside s (s.readX rs1) .double → exec (mk rd rs1 rs2) s = .fault (.memoryFault (s.readX rs1) .double)) := by
  have h := amo_of_exec (w := .double) (L := 64) rfl hop he s rd rs1 rs2
  simpa only [Width.bytes, signedWindow_double, Nat.mod_eq_of_lt (s.readX rs2).isLt] using h

end Sys2Proof.Machine

/-! ### The statements -/

namespace Sys2Proof.Proofs

open Machine Claims

/-- Settles O55: the model holds no reservation, so LR has the frame of a load and SC always that of its store. -/
theorem loadReservedAndStoreConditional : Obligations.LoadReservedAndStoreConditional :=
  ⟨⟨lrForm_of_rowsAtomic 0 rfl rfl fun _ => rfl, loadReserved_of_exec fun _ _ _ => rfl⟩,
    ⟨lrForm_of_rowsAtomic 11 rfl rfl fun _ => rfl, loadReserved_of_exec fun _ _ _ => rfl⟩,
    ⟨amoForm_of_rowsAtomic 1 rfl rfl fun _ => rfl, storeConditional_of_exec fun _ _ _ _ => rfl⟩,
    ⟨amoForm_of_rowsAtomic 12 rfl rfl fun _ => rfl, storeConditional_of_exec fun _ _ _ _ => rfl⟩⟩

/-- Settles O56: each is the rule of an AMO for its operation on naturals, which `(… :)` takes from the `computes` lemma
rather than from the claim. -/
theorem atomicWordOperations : Obligations.AtomicWordOperations :=
  ⟨⟨amoForm_of_rowsAtomic 2 rfl rfl fun _ => rfl, (amoWord_of_exec .amoswapW computes_swap fun _ _ _ _ => rfl :)⟩,
    ⟨amoForm_of_rowsAtomic 3 rfl rfl fun _ => rfl, (amoWord_of_exec .amoaddW computes_add fun _ _ _ _ => rfl :)⟩,
    ⟨amoForm_of_rowsAtomic 4 rfl rfl fun _ => rfl, (amoWord_of_exec .amoxorW computes_xor fun _ _ _ _ => rfl :)⟩,
    ⟨amoForm_of_rowsAtomic 5 rfl rfl fun _ => rfl, (amoWord_of_exec .amoandW computes_and fun _ _ _ _ => rfl :)⟩,
    ⟨amoForm_of_rowsAtomic 6 rfl rfl fun _ => rfl, (amoWord_of_exec .amoorW computes_or fun _ _ _ _ => rfl :)⟩,
    ⟨amoForm_of_rowsAtomic 7 rfl rfl fun _ => rfl, (amoWord_of_exec .amominW computes_minS fun _ _ _ _ => rfl :)⟩,
    ⟨amoForm_of_rowsAtomic 8 rfl rfl fun _ => rfl, (amoWord_of_exec .amomaxW computes_maxS fun _ _ _ _ => rfl :)⟩,
    ⟨amoForm_of_rowsAtomic 9 rfl rfl fun _ => rfl, (amoWord_of_exec .amominuW computes_minU fun _ _ _ _ => rfl :)⟩,
    ⟨amoForm_of_rowsAtomic 10 rfl rfl fun _ => rfl, (amoWord_of_exec .amomaxuW computes_maxU fun _ _ _ _ => rfl :)⟩⟩

/-- Settles O57, by the same on 64 bits. -/
theorem atomicDoublewordOperations : Obligations.AtomicDoublewordOperations :=
  ⟨⟨amoForm_of_rowsAtomic 13 rfl rfl fun _ => rfl, (amoDouble_of_exec .amoswapD computes_swap fun _ _ _ _ => rfl :)⟩,
    ⟨amoForm_of_rowsAtomic 14 rfl rfl fun _ => rfl, (amoDouble_of_exec .amoaddD computes_add fun _ _ _ _ => rfl :)⟩,
    ⟨amoForm_of_rowsAtomic 15 rfl rfl fun _ => rfl, (amoDouble_of_exec .amoxorD computes_xor fun _ _ _ _ => rfl :)⟩,
    ⟨amoForm_of_rowsAtomic 16 rfl rfl fun _ => rfl, (amoDouble_of_exec .amoandD computes_and fun _ _ _ _ => rfl :)⟩,
    ⟨amoForm_of_rowsAtomic 17 rfl rfl fun _ => rfl, (amoDouble_of_exec .amoorD computes_or fun _ _ _ _ => rfl :)⟩,
    ⟨amoForm_of_rowsAtomic 18 rfl rfl fun _ => rfl, (amoDouble_of_exec .amominD computes_minS fun _ _ _ _ => rfl :)⟩,
    ⟨amoForm_of_rowsAtomic 19 rfl rfl fun _ => rfl, (amoDouble_of_exec .amomaxD computes_maxS fun _ _ _ _ => rfl :)⟩,
    ⟨amoForm_of_rowsAtomic 20 rfl rfl fun _ => rfl, (amoDouble_of_exec .amominuD computes_minU fun _ _ _ _ => rfl :)⟩,
    ⟨amoForm_of_rowsAtomic 21 rfl rfl fun _ => rfl, (amoDouble_of_exec .amomaxuD computes_maxU fun _ _ _ _ => rfl :)⟩⟩

end Sys2Proof.Proofs

/-! ## Family 46_csr_fence: what a CSR instruction leaves in the bank and in rd, and the fences

First the decoding of the group; then the one frame of a CSR instruction; then the settled statements. -/

namespace Sys2Proof

open Claims

/-! ### Every word of the group is its row's instruction (R85, R96, R108, R109) -/

theorem rowsCsrFence_mem (k : Fin 8) : rowsCsrFence[k] ∈ rows := mem_rowsCsrFence (List.getElem_mem _)

theorem rowsCsrFence_mask (k : Fin 8) : rowsCsrFence[k].mask = 0x0000707F#32 := by
  fin_cases k <;> rfl

/-- A row of the group reads every word with its opcode and funct3: they all have one mask. -/
theorem decode_of_rowsCsrFence (k : Fin 8) {op : BitVec 7} {f3 : BitVec 3} {w : Word32}
    (hp : rowsCsrFence[k].pat = place 0 op ||| place 12 f3) (h0 : bits w 0 7 = op) (h12 : bits w 12 3 = f3) :
    decode w = .ok (rowsCsrFence[k].build w) :=
  decode_of_0000707F (rowsCsrFence_mem k) (rowsCsrFence_mask k) hp h0 h12

end Sys2Proof

namespace Sys2Proof.Machine

open Claims

/-! ### The frame of a CSR instruction (R320) -/

/-- A new bank and one register write have the frame of `PutsCsr`, given what the new bank reads. -/
theorem putsCsr_of_exec {i : Instr} {s : State} {bank : List (Nat × Word)} {a : CsrIndex} {v u : Word} {rd : Reg}
    (he : exec i s = .next (State.writeX { s with csr := bank } rd u))
    (hbank : ∀ b, State.readCsr { s with csr := bank } b = if b = a then v else s.readCsr b) : PutsCsr i s a v rd u :=
  ⟨_, he, fun r => readX_writeX _ rd r u, readF_writeX _ rd u, writeX_fcsr _ rd u,
    fun b => (readCsr_writeX _ rd u b).trans (hbank b), writeX_priv _ rd u, writeX_halted _ rd u, writeX_pc _ rd u,
    by rw [writeX_mem], fun _ => by rw [writeX_mem]⟩

/-- The rule of an instruction that always writes its entry. -/
theorem putsCsr_of_writeCsr {i : Instr} {s : State} {rd : Reg} {a : CsrIndex} {v : Word}
    (he : exec i s = .next ((s.writeCsr a v).writeX rd (s.readCsr a))) : PutsCsr i s a v rd (s.readCsr a) :=
  putsCsr_of_exec he fun b => readCsr_writeCsr s a b v

/-- The rule of a CSR instruction: the entry gets `new` of its old value under the write condition and stays otherwise.
`he` is `exec` unfolded for the instruction, `hv` reads that value as the claimed one. -/
theorem putsCsr_of_csrAccess {i : Instr} {s : State} {rd : Reg} {a : CsrIndex} {writes : Bool} {new : Word → Word}
    {v : Word} (he : exec i s = csrAccess rd a writes new s)
    (hv : (if writes then new (s.readCsr a) else s.readCsr a) = v) : PutsCsr i s a v rd (s.readCsr a) := by
  subst hv
  cases writes with
  | true => exact putsCsr_of_writeCsr he
  | false =>
    refine putsCsr_of_exec (bank := s.csr) he fun b => ?_
    split
    · next hb => rw [hb]; rfl
    · rfl

end Sys2Proof.Machine

/-! ### The statements -/

namespace Sys2Proof.Proofs

open Machine Claims

/-- Settles O58: the write condition of CSRRS and CSRRC is on the field rs1, not on the value of the register. -/
theorem csrRegisterForms : Obligations.CsrRegisterForms :=
  ⟨⟨fun _ => decode_of_rowsCsrFence 2 rfl, fun _ _ _ _ => putsCsr_of_writeCsr rfl⟩,
    ⟨fun _ => decode_of_rowsCsrFence 3 rfl, fun _ _ _ _ => putsCsr_of_csrAccess rfl (if_congr bne_iff_ne rfl rfl)⟩,
    ⟨fun _ => decode_of_rowsCsrFence 4 rfl, fun _ _ _ _ => putsCsr_of_csrAccess rfl (if_congr bne_iff_ne rfl rfl)⟩⟩

/-- Settles O59: as the register forms, with the write condition on the literal (D33). -/
theorem csrImmediateForms : Obligations.CsrImmediateForms :=
  ⟨⟨fun _ => decode_of_rowsCsrFence 5 rfl, fun _ _ _ _ => putsCsr_of_writeCsr rfl⟩,
    ⟨fun _ => decode_of_rowsCsrFence 6 rfl, fun _ _ _ _ => putsCsr_of_csrAccess rfl (if_congr bne_iff_ne rfl rfl)⟩,
    ⟨fun _ => decode_of_rowsCsrFence 7 rfl, fun _ _ _ _ => putsCsr_of_csrAccess rfl (if_congr bne_iff_ne rfl rfl)⟩⟩

/-- Settles O60: the rows of the two fences fix only the opcode and funct3, and `exec` answers the state itself. -/
theorem fencesChangeNothing : Obligations.FencesChangeNothing :=
  ⟨fun _ => decode_of_rowsCsrFence 0 rfl, fun _ => decode_of_rowsCsrFence 1 rfl, fun _ => ⟨rfl, rfl⟩⟩

end Sys2Proof.Proofs

/-! ## Family 60_exceptions: when a cycle completes, what a fatal condition leaves, and what no instruction observes

First the facts the statements need, in the order of the definitions they speak of; then the settled statements. -/

namespace Sys2Proof.Machine

open Claims

/-! ### When an instruction completes, and how else it ends (R340, R343, R344) -/

/-- An instruction completes exactly when none of its conditions holds. -/
theorem exec_completes_iff (i : Instr) (s : State) :
    (∃ t, exec i s = .next t) ↔
      badRounding i = false ∧ ∀ addr w, dataAccess i s = some (addr, w) → Inside s addr w := by
  constructor
  · rintro ⟨t, ht⟩
    constructor
    · by_contra hbad
      rw [exec_of_badRounding s (Bool.of_not_eq_false hbad)] at ht
      cases ht
    · intro addr w ha
      by_contra hout
      rw [exec_of_outside ha (inside_eq_false hout)] at ht
      cases ht
  · rintro ⟨hr, hin⟩
    exact exec_of_no_condition (condition_eq_none hr hin)

/-- The condition of an instruction is a MemoryFault or an UnsupportedRoundingMode. -/
theorem condition_eq_some {i : Instr} {s : State} {c : Fault} (h : condition i s = some c) :
    (∃ addr w, c = .memoryFault addr w) ∨ ∃ w, c = .unsupportedRoundingMode w := by
  unfold condition at h
  split at h
  · next addr w _ => exact .inl ⟨addr, w, (Option.some.inj (Option.ite_none_left_eq_some.1 h).2).symm⟩
  · exact .inr ⟨encode i, (Option.some.inj (Option.ite_none_right_eq_some.1 h).2).symm⟩

/-! ### When a cycle completes, and how else it ends (R27, R349) -/

theorem inside_of_fetch {s : State} {w : Word32} (h : fetch s = .ok w) : Inside s s.pc .word := by
  by_contra hout
  rw [fetch_outside (inside_eq_false hout)] at h
  cases h

/-- A cycle of a running machine completes exactly when its fetch, its decode and its instruction do. -/
theorem step_completes_iff {s : State} (hr : s.halted = none) :
    (∃ u, step s = .next u) ↔
      Inside s s.pc .word ∧ ∃ i, decode (BitVec.ofNat 32 (windowValue s.mem s.pc.toNat 4)) = .ok i ∧
        ∃ t, exec i s = .next t := by
  constructor
  · rintro ⟨u, hu⟩
    obtain ⟨-, w, i, t, hf, hd, he, -⟩ := step_next hu
    have hin := inside_of_fetch hf
    obtain rfl : _ = w := Except.ok.inj ((fetch_inside hin).symm.trans hf)
    exact ⟨hin, i, hd, t, he⟩
  · rintro ⟨hin, i, hd, t, he⟩
    exact ⟨_, by rw [step_of_decode hr (fetch_inside hin) hd, he]⟩

/-- The four ends of a cycle of a running machine, in the order of its phases (R349). -/
theorem step_ends {s : State} (hr : s.halted = none) :
    (∃ u, step s = .next u) ∨ (∃ addr w, step s = .fault (.memoryFault addr w)) ∨
      (∃ w, step s = .fault (.decodeError w)) ∨ ∃ w, step s = .fault (.unsupportedRoundingMode w) := by
  by_cases hin : Inside s s.pc .word
  case neg => exact .inr (.inl ⟨_, _, step_of_fetch_error hr (fetch_outside (inside_eq_false hin))⟩)
  have hf := fetch_inside hin
  cases hd : decode (BitVec.ofNat 32 (windowValue s.mem s.pc.toNat 4)) with
  | error e => exact .inr (.inr (.inl ⟨_, step_of_decode_error hr hf hd⟩))
  | ok i =>
    have hstep := step_of_decode hr hf hd
    cases hc : condition i s with
    | none =>
      obtain ⟨t, ht⟩ := exec_of_no_condition hc
      exact .inl ⟨_, by rw [hstep, ht]⟩
    | some c =>
      rw [exec_of_condition hc] at hstep
      obtain ⟨addr, w, rfl⟩ | ⟨w, rfl⟩ := condition_eq_some hc
      · exact .inr (.inl ⟨addr, w, hstep⟩)
      · exact .inr (.inr (.inr ⟨w, hstep⟩))

/-! ### The cycle that a fatal condition ends, and the cycles after it (R346) -/

theorem cycle_of_fault {s : State} {c : Fault} (hr : s.halted = none) (h : step s = .fault c) : cycle s = halt c s := by
  simp [cycle, h, hr]

theorem step_of_halted {s : State} {c : Fault} (h : s.halted = some c) : step s = .fault c := by
  simp only [step, h]

theorem cycle_of_halted {s : State} {c : Fault} (h : s.halted = some c) : cycle s = s := by
  simp [cycle, step_of_halted h, h]

theorem cycles_of_halted {s : State} {c : Fault} (n : Nat) (h : s.halted = some c) : cycles n s = s := by
  induction n with
  | zero => rfl
  | succ n ih => rw [cycles, cycle_of_halted h, ih]

/-! ### Runs that differ in the privilege level and fcsr only (R35, R353) -/

/-- The state with the level `p` and the fcsr `c`. -/
def State.withPrivFcsr (p : Priv) (c : Word32) (s : State) : State := { s with priv := p, fcsr := c }

/-- The answer with its next state, if any, changed by `g`. -/
def onNext (g : State → State) : Result → Result
  | .next t => .next (g t)
  | .fault e => .fault e
  | .refused r => .refused r

section
variable (p : Priv) (c : Word32)

theorem writeX_withPrivFcsr (s : State) (rd : Reg) (v : Word) :
    (s.withPrivFcsr p c).writeX rd v = (s.writeX rd v).withPrivFcsr p c := by
  unfold State.writeX; split <;> rfl

theorem putX_withPrivFcsr (rd : Reg) (v : Word) (s : State) :
    putX rd v (s.withPrivFcsr p c) = onNext (·.withPrivFcsr p c) (putX rd v s) :=
  congrArg _ (writeX_withPrivFcsr p c s rd v)

theorem putS_withPrivFcsr (rd : Reg) (w : Word32) (s : State) :
    putS rd w (s.withPrivFcsr p c) = onNext (·.withPrivFcsr p c) (putS rd w s) := rfl

/-- A register write after a new buffer, as store-conditional and the AMOs end. -/
theorem storePut_withPrivFcsr (m : Memory) (rd : Reg) (v : Word) (s : State) :
    .next (State.writeX { s.withPrivFcsr p c with mem := m } rd v) =
      onNext (·.withPrivFcsr p c) (.next (State.writeX { s with mem := m } rd v)) :=
  putX_withPrivFcsr p c rd v { s with mem := m }

theorem loadX_withPrivFcsr (w : Width) (ext : Word → Word) (rd : Reg) (addr : Word) (s : State) :
    loadX w ext rd addr (s.withPrivFcsr p c) = onNext (·.withPrivFcsr p c) (loadX w ext rd addr s) := by
  cases h : s.mem.inside addr w with
  | true =>
    rw [loadX_inside ext rd h, loadX_inside (s := s.withPrivFcsr p c) ext rd h]
    exact putX_withPrivFcsr p c rd _ s
  | false => rw [loadX_outside ext rd h, loadX_outside (s := s.withPrivFcsr p c) ext rd h]; rfl

theorem loadS_withPrivFcsr (rd : Reg) (addr : Word) (s : State) :
    loadS rd addr (s.withPrivFcsr p c) = onNext (·.withPrivFcsr p c) (loadS rd addr s) := by
  cases h : s.mem.inside addr .word with
  | true =>
    rw [loadS_inside rd h, loadS_inside (s := s.withPrivFcsr p c) rd h]
    exact putS_withPrivFcsr p c rd _ s
  | false => rw [loadS_outside rd h, loadS_outside (s := s.withPrivFcsr p c) rd h]; rfl

theorem store_withPrivFcsr (w : Width) (addr v : Word) (s : State) :
    store w addr v (s.withPrivFcsr p c) = onNext (·.withPrivFcsr p c) (store w addr v s) := by
  cases h : s.mem.inside addr w with
  | true => rw [store_inside v h, store_inside (s := s.withPrivFcsr p c) v h]; rfl
  | false => rw [store_outside v h, store_outside (s := s.withPrivFcsr p c) v h]; rfl

theorem storeCond_withPrivFcsr (w : Width) (rd : Reg) (addr v : Word) (s : State) :
    storeCond w rd addr v (s.withPrivFcsr p c) = onNext (·.withPrivFcsr p c) (storeCond w rd addr v s) := by
  cases h : s.mem.inside addr w with
  | true =>
    rw [storeCond_inside rd v h, storeCond_inside (s := s.withPrivFcsr p c) rd v h]
    exact storePut_withPrivFcsr p c _ rd 0 s
  | false => rw [storeCond_outside rd v h, storeCond_outside (s := s.withPrivFcsr p c) rd v h]; rfl

theorem amo_withPrivFcsr (w : Width) (L : Nat) (op : BitVec L → BitVec L → BitVec L) (rd rs1 rs2 : Reg)
    (s : State) :
    amo w L op rd rs1 rs2 (s.withPrivFcsr p c) = onNext (·.withPrivFcsr p c) (amo w L op rd rs1 rs2 s) := by
  cases h : s.mem.inside (s.readX rs1) w with
  | true =>
    rw [amo_inside op rd rs1 rs2 h, amo_inside (s := s.withPrivFcsr p c) op rd rs1 rs2 h]
    exact storePut_withPrivFcsr p c _ rd _ s
  | false => rw [amo_outside op rd rs1 rs2 h, amo_outside (s := s.withPrivFcsr p c) op rd rs1 rs2 h]; rfl

theorem csrAccess_withPrivFcsr (rd : Reg) (a : CsrIndex) (writes : Bool) (new : Word → Word) (s : State) :
    csrAccess rd a writes new (s.withPrivFcsr p c) = onNext (·.withPrivFcsr p c) (csrAccess rd a writes new s) := by
  cases writes with
  | true => exact putX_withPrivFcsr p c rd _ (s.writeCsr a (new (s.readCsr a)))
  | false => exact putX_withPrivFcsr p c rd _ s

theorem jumpLink_withPrivFcsr (rd : Reg) (target : Word) (s : State) :
    jumpLink rd target (s.withPrivFcsr p c) = onNext (·.withPrivFcsr p c) (jumpLink rd target s) := by
  rw [jumpLink_eq, writeX_withPrivFcsr]; rfl

theorem branch_withPrivFcsr (taken : Bool) (k : Word) (s : State) :
    branch taken k (s.withPrivFcsr p c) = onNext (·.withPrivFcsr p c) (branch taken k s) := by
  cases taken <;> rfl

theorem cvtOfInt_withPrivFcsr (rm : RmField) (n : Int) (word : Word32) (rd : Reg) (s : State) :
    cvtOfInt rm n word rd (s.withPrivFcsr p c) = onNext (·.withPrivFcsr p c) (cvtOfInt rm n word rd s) := by
  cases rm with
  | static m => exact putS_withPrivFcsr p c rd (f32OfInt m n) s
  | reserved5 | reserved6 | dyn => rfl

/-- An instruction reads neither the level nor fcsr, and carries both into its next state. -/
theorem exec_withPrivFcsr (i : Instr) (s : State) :
    exec i (s.withPrivFcsr p c) = onNext (·.withPrivFcsr p c) (exec i s) := by
  cases i
  all_goals simp only [exec]
  case lui | auipc | addi | slti | sltiu | xori | ori | andi | slli | srli | srai | add | sub | sll | slt | sltu |
      xor | srl | sra | or | and | addiw | slliw | srliw | sraiw | addw | subw | sllw | srlw | sraw | mul | mulh |
      mulhsu | mulhu | div | divu | rem | remu | mulw | divw | divuw | remw | remuw | fcvtWS | fcvtWuS | fcvtLS |
      fcvtLuS | fmvXW | feqS | fltS | fleS | fclassS => exact putX_withPrivFcsr p c _ _ s
  case jal | jalr => exact jumpLink_withPrivFcsr p c _ _ s
  case beq | bne | blt | bge | bltu | bgeu => exact branch_withPrivFcsr p c _ _ s
  case lb | lh | lw | ld | lbu | lhu | lwu | lrW | lrD => exact loadX_withPrivFcsr p c _ _ _ _ s
  case flw => exact loadS_withPrivFcsr p c _ _ s
  case sb | sh | sw | sd | fsw => exact store_withPrivFcsr p c _ _ _ s
  case scW | scD => exact storeCond_withPrivFcsr p c _ _ _ _ s
  case amoswapW | amoaddW | amoxorW | amoandW | amoorW | amominW | amomaxW | amominuW | amomaxuW | amoswapD |
      amoaddD | amoxorD | amoandD | amoorD | amominD | amomaxD | amominuD | amomaxuD =>
    exact amo_withPrivFcsr p c _ _ _ _ _ _ s
  case csrrw | csrrs | csrrc | csrrwi | csrrsi | csrrci => exact csrAccess_withPrivFcsr p c _ _ _ _ s
  case fcvtSW | fcvtSWu | fcvtSL | fcvtSLu => exact cvtOfInt_withPrivFcsr p c _ _ _ _ s
  case fence | fenceI => rfl
  case fmaddS | fmsubS | fnmsubS | fnmaddS | faddS | fsubS | fmulS | fdivS | fsqrtS | fsgnjS | fsgnjnS | fsgnjxS |
      fminS | fmaxS | fmvWX => exact putS_withPrivFcsr p c _ _ s

end

end Sys2Proof.Machine

/-! ### The statements -/

namespace Sys2Proof.Proofs

open Machine Claims

/-- Settles O6: the cycle completes when its fetch, its decode and its instruction do, and each phase stops it with a
condition of its own. -/
theorem cycleCompletesExactlyWhen : Obligations.CycleCompletesExactlyWhen := fun s hr =>
  ⟨by simp only [step_completes_iff hr, exec_completes_iff], step_ends hr⟩

/-- Settles O8: the cycle that a condition ends is `halt`, and the cycle of a halted machine the identity. -/
theorem fatalConditionIsPreciseAndFinal : Obligations.FatalConditionIsPreciseAndFinal := by
  refine ⟨fun s c hr hstop => ?_, fun s c n h => ⟨step_of_halted h, cycles_of_halted n h⟩⟩
  rw [cycle_of_fault hr hstop]
  exact ⟨halt_halted s c, readX_halt s c, readF_halt s c, halt_fcsr s c, readCsr_halt s c, halt_priv s c, halt_pc s c,
    by rw [halt_mem], fun _ => by rw [halt_mem]⟩

/-- Settles O11, from the equation of `exec` under another level and fcsr. -/
theorem privAndFcsrAreNeverObserved : Obligations.PrivAndFcsrAreNeverObserved := fun i s p c =>
  ⟨fun _ ht => (exec_withPrivFcsr p c i s).trans (congrArg (onNext _) ht),
    fun _ he => (exec_withPrivFcsr p c i s).trans (congrArg (onNext _) he)⟩

end Sys2Proof.Proofs

/-! ## Family other: words written out from the spec's examples

Each is checked against the encoder, which the decoder inverts (R124). -/

namespace Sys2Proof.Proofs

/-- A word that holds an instruction's encoding around the bits that instruction ignores decodes to it (R117). -/
theorem decode_of_encode {w : Word32} {i : Instr} (hw : i.wf = true)
    (he : encode i ||| (w &&& ignoredBits i) = w) : decode w = .ok i :=
  (congrArg decode he).symm.trans (decodeInvertsEncode.1 i w hw)

/-- Settles O20: each word is the encoding of its instruction, around the bits that AMOMAXU.D (aq, rl), FMADD.S (rm)
and FENCE.I ignore. -/
theorem exampleWordsDecode : Obligations.ExampleWordsDecode :=
  ⟨decode_of_encode rfl rfl, decode_of_encode rfl rfl, decode_of_encode rfl rfl, decode_of_encode rfl rfl,
    decode_of_encode rfl rfl, decode_of_encode rfl rfl, decode_of_encode rfl rfl, decode_of_encode rfl rfl,
    decode_of_encode rfl rfl, decode_of_encode rfl rfl, decode_of_encode rfl rfl, decode_of_encode rfl rfl⟩

end Sys2Proof.Proofs
